-- ==== Sys2Proof/Word.lean ====
section
/-! DEFINITION. The widths and the named value sets of the block (spec rules R9, R10, R64, R65). -/

namespace Sys2Proof

/-- A byte of the frame buffer or of a result register (R23, R25). -/
abbrev Byte := BitVec 8

/-- A time in microseconds, `TIME_W = 64` bits: `now`, `t0`, `tr`, `dur` (R9). -/
abbrev Time := BitVec 64

/-- A host word: STATUS, RESULT or PINCTL (R61 to R63). -/
abbrev HostWord := BitVec 16

/-- A command word: bit 2 is `REF`, bits 1:0 are `OP` (R60). -/
abbrev CmdWord := BitVec 3

/-- A level of the line: 0 is low, 1 is high (R10, R52). -/
inductive Level where
  | low
  | high
  deriving DecidableEq, Repr, Inhabited

/-- A direction of the pin: `OUT` drives the line, `IN` listens (R28). -/
inductive Dir where
  | output
  | input
  deriving DecidableEq, Repr, Inhabited

/-- The eleven values of the sequencing state `st` (R16, R64); codes 11 to 15 have no name (U9). -/
inductive St where
  | idle
  | startLow
  | startRel
  | ackLow
  | ackHigh
  | retryWait
  | bitLow
  | measHigh
  | check
  | done
  | failed
  deriving DecidableEq, Repr, Inhabited

/-- The six error kinds that are produced (R135); the two reserved kinds of R142 are left out, as that
rule and U2 allow. -/
inductive ErrorKind where
  | nullReference
  | handshakeTimeoutLow
  | handshakeTimeoutHigh
  | bitStartTimeout
  | highMeasureTimeout
  | checksumMismatch
  deriving DecidableEq, Repr, Inhabited

/-- The values of the status register `code`: success, or an error kind (R24, R65, R135). -/
inductive Code where
  | ok
  | error (kind : ErrorKind)
  deriving DecidableEq, Repr, Inhabited

end Sys2Proof
end

