-- ==== Sys2Proof/Syntax.lean ====
section
/-! DEFINITION. The operations of the block that have a bit pattern: one constructor per row of the opcode
table (R71). A constructor carries every bit of its row that the row does not fix, ignored bits included. -/

namespace Sys2Proof

/-- The thirty rows of the opcode table. -/
inductive Instr where
  /-- CMD `OP = 00` (R118); `ref` is the ignored bit 2. -/
  | nop (ref : Bool)
  /-- CMD `0b101` (R120). -/
  | init
  /-- CMD `0b001` (R119). -/
  | initNull
  /-- CMD `0b110` (R121). -/
  | read
  /-- CMD `0b010` (R119). -/
  | readNull
  /-- CMD `OP = 11` (R118); `ref` is the ignored bit 2. -/
  | reserved (ref : Bool)
  /-- State code 0 (R127). -/
  | stIdle
  /-- State code 1 (R87). -/
  | stStartLow
  /-- State code 2 (R88). -/
  | stStartRel
  /-- State code 3 (R90). -/
  | stAckLow
  /-- State code 4 (R91). -/
  | stAckHigh
  /-- State code 5 (R93). -/
  | stRetryWait
  /-- State code 6 (R98). -/
  | stBitLow
  /-- State code 7 (R99). -/
  | stMeasHigh
  /-- State code 8 (R109). -/
  | stCheck
  /-- State code 9 (R128). -/
  | stDone
  /-- State code 10 (R129). -/
  | stFailed
  /-- Status code 0 (R128). -/
  | codeOk
  /-- Status code 1 (R136). -/
  | codeNullReference
  /-- Status code 2 (R137). -/
  | codeHandshakeTimeoutLow
  /-- Status code 3 (R138). -/
  | codeHandshakeTimeoutHigh
  /-- Status code 4 (R139). -/
  | codeBitStartTimeout
  /-- Status code 5 (R140). -/
  | codeHighMeasureTimeout
  /-- Status code 6 (R141). -/
  | codeChecksumMismatch
  /-- Status code 7, reserved (R142). -/
  | codeReservedTimeoutBitSync
  /-- Status code 8, reserved (R142). -/
  | codeReservedTimeoutHighPulse
  /-- A frame `h f t g c`, first received first (R57). -/
  | frame (h f t g c : Byte)
  /-- The host word STATUS with its fields (R61). -/
  | status (stCode : BitVec 4) (rvalid inited busy : Bool) (code : BitVec 4)
  /-- The host word RESULT with its fields (R62). -/
  | result (temp hum : Byte)
  /-- The host word PINCTL with its fields (R63). -/
  | pinctl (pd pu out dir : Bool)
  deriving DecidableEq, Repr

end Sys2Proof
end

