-- ==== Sys2Proof/WellFormed.lean ====
section
/-! DEFINITION. Which terms of `Instr` stand for a word of the spec's encodings. -/

namespace Sys2Proof

/-- The terms that stand for a word the spec's encodings allow: a STATUS word's state code is one of the eleven
of R64 and its status code one of the seven that are produced (R65, R66), and a PINCTL word's `PD` is 0 (R63).
Every other bit pattern of every row is legal (R66 (d) for frames). -/
def Instr.wellFormed : Instr → Bool
  | .nop _ => true
  | .init => true
  | .initNull => true
  | .read => true
  | .readNull => true
  | .reserved _ => true
  | .stIdle => true
  | .stStartLow => true
  | .stStartRel => true
  | .stAckLow => true
  | .stAckHigh => true
  | .stRetryWait => true
  | .stBitLow => true
  | .stMeasHigh => true
  | .stCheck => true
  | .stDone => true
  | .stFailed => true
  | .codeOk => true
  | .codeNullReference => true
  | .codeHandshakeTimeoutLow => true
  | .codeHandshakeTimeoutHigh => true
  | .codeBitStartTimeout => true
  | .codeHighMeasureTimeout => true
  | .codeChecksumMismatch => true
  | .codeReservedTimeoutBitSync => true
  | .codeReservedTimeoutHighPulse => true
  | .frame _ _ _ _ _ => true
  | .status stCode _ _ _ code => decide (stCode.toNat ≤ 10) && decide (code.toNat ≤ 6)
  | .result _ _ => true
  | .pinctl pd _ _ _ => !pd

end Sys2Proof
end

