-- ==== Sys2Proof/Decode.lean ====
section
/-! DEFINITION. The decoder, total on every word of every channel and rejecting by name, and after it the
encoder, both from 30_encoding.md (R57, R60 to R65). -/

namespace Sys2Proof

/-- The seven separate encodings of the block. One word means different things in two of them, so a word is
decoded in its channel (R57, R60 to R65; log 5). -/
inductive Channel where
  /-- The command word, 3 bits (R60). -/
  | cmd
  /-- The state code, 4 bits (R64). -/
  | st
  /-- The status code, 4 bits (R65). -/
  | code
  /-- The frame, 40 bits (R57). -/
  | frame
  /-- Port 1, 16 bits (R61). -/
  | status
  /-- Port 2, 16 bits (R62). -/
  | result
  /-- Port 3, 16 bits (R63). -/
  | pinctl
  deriving DecidableEq, Repr

/-- Why a word is rejected. -/
inductive DecodeError where
  /-- The word has more bits than its channel. -/
  | wordTooWide
  /-- State code 11 to 15: never written by any rule (R64, R66 (b)). -/
  | unassignedStateCode
  /-- Status code 9 to 15: unassigned (R65, R66 (b)). -/
  | unassignedStatusCode
  /-- STATUS bits 15:12 or 7, which read 0 (R61). -/
  | statusBitsNotZero
  /-- A STATUS word whose `CODE` is 7 to 15, never produced (R65). -/
  | statusCodeNeverProduced
  /-- PINCTL bits 15:4, which read 0 (R63). -/
  | pinctlBitsNotZero
  /-- PINCTL bit 3, `PD`, which is always 0 (R63). -/
  | pullDownSet
  deriving DecidableEq, Repr

/-- The width in bits of a channel's words. -/
def Channel.width : Channel → Nat
  | .cmd => 3
  | .st => 4
  | .code => 4
  | .frame => 40
  | .status => 16
  | .result => 16
  | .pinctl => 16

/-! ## Fields -/

/-- The `OP` field of a command word (R60). -/
def cmdOp (w : CmdWord) : BitVec 2 := w.extractLsb' 0 2

/-- The `REF` bit of a command word (R60). -/
def cmdRef (w : CmdWord) : Bool := w.getLsbD 2

/-- One bit as a one-bit vector. -/
def bit (b : Bool) : BitVec 1 := BitVec.ofBool b

/-! ## The decoder -/

/-- The command a CMD word stands for (R60). -/
def decodeCmd (w : CmdWord) : Instr :=
  if cmdOp w = 0#2 then .nop (cmdRef w)
  else if cmdOp w = 1#2 then (if cmdRef w then .init else .initNull)
  else if cmdOp w = 2#2 then (if cmdRef w then .read else .readNull)
  else .reserved (cmdRef w)

/-- The state a state code stands for (R64). -/
def decodeSt (w : BitVec 4) : Option St :=
  match w.toNat with
  | 0 => some .idle
  | 1 => some .startLow
  | 2 => some .startRel
  | 3 => some .ackLow
  | 4 => some .ackHigh
  | 5 => some .retryWait
  | 6 => some .bitLow
  | 7 => some .measHigh
  | 8 => some .check
  | 9 => some .done
  | 10 => some .failed
  | _ => none

/-- The operation performed in a state (R64). -/
def stInstr : St → Instr
  | .idle => .stIdle
  | .startLow => .stStartLow
  | .startRel => .stStartRel
  | .ackLow => .stAckLow
  | .ackHigh => .stAckHigh
  | .retryWait => .stRetryWait
  | .bitLow => .stBitLow
  | .measHigh => .stMeasHigh
  | .check => .stCheck
  | .done => .stDone
  | .failed => .stFailed

/-- The status a status code stands for (R65). -/
def decodeCode (w : BitVec 4) : Except DecodeError Instr :=
  match w.toNat with
  | 0 => .ok .codeOk
  | 1 => .ok .codeNullReference
  | 2 => .ok .codeHandshakeTimeoutLow
  | 3 => .ok .codeHandshakeTimeoutHigh
  | 4 => .ok .codeBitStartTimeout
  | 5 => .ok .codeHighMeasureTimeout
  | 6 => .ok .codeChecksumMismatch
  | 7 => .ok .codeReservedTimeoutBitSync
  | 8 => .ok .codeReservedTimeoutHighPulse
  | _ => .error .unassignedStatusCode

/-- The frame a 40-bit number stands for, slot 0 being bit 39 (R57). -/
def decodeFrame (w : BitVec 40) : Instr :=
  .frame (w.extractLsb' 32 8) (w.extractLsb' 24 8) (w.extractLsb' 16 8) (w.extractLsb' 8 8) (w.extractLsb' 0 8)

/-- The STATUS word's fields (R61). -/
def decodeStatus (w : HostWord) : Except DecodeError Instr :=
  if w.extractLsb' 12 4 ≠ 0#4 ∨ w.getLsbD 7 then .error .statusBitsNotZero
  else if 10 < (w.extractLsb' 8 4).toNat then .error .unassignedStateCode
  else if 6 < (w.extractLsb' 0 4).toNat then .error .statusCodeNeverProduced
  else .ok (.status (w.extractLsb' 8 4) (w.getLsbD 6) (w.getLsbD 5) (w.getLsbD 4) (w.extractLsb' 0 4))

/-- The RESULT word's fields (R62). -/
def decodeResult (w : HostWord) : Instr := .result (w.extractLsb' 8 8) (w.extractLsb' 0 8)

/-- The PINCTL word's fields (R63). -/
def decodePinctl (w : HostWord) : Except DecodeError Instr :=
  if w.extractLsb' 4 12 ≠ 0#12 then .error .pinctlBitsNotZero
  else if w.getLsbD 3 then .error .pullDownSet
  else .ok (.pinctl false (w.getLsbD 2) (w.getLsbD 1) (w.getLsbD 0))

/-- The instruction a word of a channel stands for, or the name of what is wrong with it. -/
def decode (ch : Channel) (w : Nat) : Except DecodeError Instr :=
  if 2 ^ ch.width ≤ w then .error .wordTooWide
  else match ch with
    | .cmd => .ok (decodeCmd (BitVec.ofNat 3 w))
    | .st =>
      match decodeSt (BitVec.ofNat 4 w) with
      | some state => .ok (stInstr state)
      | none => .error .unassignedStateCode
    | .code => decodeCode (BitVec.ofNat 4 w)
    | .frame => .ok (decodeFrame (BitVec.ofNat 40 w))
    | .status => decodeStatus (BitVec.ofNat 16 w)
    | .result => .ok (decodeResult (BitVec.ofNat 16 w))
    | .pinctl => decodePinctl (BitVec.ofNat 16 w)

/-! ## The encoder -/

/-- The code of a state (R64). -/
def encodeSt : St → BitVec 4
  | .idle => 0#4
  | .startLow => 1#4
  | .startRel => 2#4
  | .ackLow => 3#4
  | .ackHigh => 4#4
  | .retryWait => 5#4
  | .bitLow => 6#4
  | .measHigh => 7#4
  | .check => 8#4
  | .done => 9#4
  | .failed => 10#4

/-- The code of a status (R65). -/
def encodeCode : Code → BitVec 4
  | .ok => 0#4
  | .error .nullReference => 1#4
  | .error .handshakeTimeoutLow => 2#4
  | .error .handshakeTimeoutHigh => 3#4
  | .error .bitStartTimeout => 4#4
  | .error .highMeasureTimeout => 5#4
  | .error .checksumMismatch => 6#4

/-- The CMD word `r oo` (R60). -/
def packCmd (ref : Bool) (op : BitVec 2) : CmdWord := bit ref ++ op

/-- The frame as one 40-bit number, slot 0 most significant (R38, R57). -/
def packFrame (h f t g c : Byte) : BitVec 40 := h ++ f ++ t ++ g ++ c

/-- The STATUS word `0000ssss0vibcccc` (R61). -/
def packStatus (stCode : BitVec 4) (rvalid inited busy : Bool) (code : BitVec 4) : HostWord :=
  0#4 ++ stCode ++ 0#1 ++ bit rvalid ++ bit inited ++ bit busy ++ code

/-- The RESULT word `tttttttthhhhhhhh` (R62). -/
def packResult (temp hum : Byte) : HostWord := temp ++ hum

/-- The PINCTL word `000000000000quod` (R63). -/
def packPinctl (pd pu out dir : Bool) : HostWord :=
  0#12 ++ bit pd ++ bit pu ++ bit out ++ bit dir

/-- The channel and the word of an instruction (30_encoding.md sections 2 and 3). -/
def encode : Instr → Channel × Nat
  | .nop ref => (.cmd, (packCmd ref 0#2).toNat)
  | .init => (.cmd, (packCmd true 1#2).toNat)
  | .initNull => (.cmd, (packCmd false 1#2).toNat)
  | .read => (.cmd, (packCmd true 2#2).toNat)
  | .readNull => (.cmd, (packCmd false 2#2).toNat)
  | .reserved ref => (.cmd, (packCmd ref 3#2).toNat)
  | .stIdle => (.st, 0)
  | .stStartLow => (.st, 1)
  | .stStartRel => (.st, 2)
  | .stAckLow => (.st, 3)
  | .stAckHigh => (.st, 4)
  | .stRetryWait => (.st, 5)
  | .stBitLow => (.st, 6)
  | .stMeasHigh => (.st, 7)
  | .stCheck => (.st, 8)
  | .stDone => (.st, 9)
  | .stFailed => (.st, 10)
  | .codeOk => (.code, 0)
  | .codeNullReference => (.code, 1)
  | .codeHandshakeTimeoutLow => (.code, 2)
  | .codeHandshakeTimeoutHigh => (.code, 3)
  | .codeBitStartTimeout => (.code, 4)
  | .codeHighMeasureTimeout => (.code, 5)
  | .codeChecksumMismatch => (.code, 6)
  | .codeReservedTimeoutBitSync => (.code, 7)
  | .codeReservedTimeoutHighPulse => (.code, 8)
  | .frame h f t g c => (.frame, (packFrame h f t g c).toNat)
  | .status stCode rvalid inited busy code => (.status, (packStatus stCode rvalid inited busy code).toNat)
  | .result temp hum => (.result, (packResult temp hum).toNat)
  | .pinctl pd pu out dir => (.pinctl, (packPinctl pd pu out dir).toNat)

/-! ## The opcode table's words -/

/-- The instruction a word gives in a channel, or none. -/
def decodeIn (ch : Channel) (w : Nat) : Option Instr :=
  match decode ch w with
  | .ok i => some i
  | .error _ => none

/-- The instruction read from a word of the opcode table, given by its width and its bits only. The table's rows
stand in seven encodings whose words overlap, so a width alone does not say which one is meant; the order taken
is (log 5): one byte is a CMD word, a host program being its sequence of CMD words (R70), and, past the 3 bits
of CMD, a state code; two bytes are the host word with the most fixed bits that fits (PINCTL, then STATUS, then
RESULT); five bytes are a frame. -/
def decodeTableWord (nbits w : Nat) : Option Instr :=
  if nbits ≤ 8 then (if w < 8 then decodeIn .cmd w else decodeIn .st w)
  else if nbits ≤ 16 then
    match decodeIn .pinctl w with
    | some i => some i
    | none =>
      match decodeIn .status w with
      | some i => some i
      | none => decodeIn .result w
  else if nbits ≤ 40 then decodeIn .frame w
  else none

end Sys2Proof
end

