-- ==== Sys2Proof/Config.lean ====
section
/-! DEFINITION. What is fixed for the life of the block (the constants of R8, the open parameter `HOST_BASE`
of D6), the inputs of a step (R7, R14), and the free values the spec leaves open (R42, U4). -/

namespace Sys2Proof

/-! ## The constants of R8, in microseconds or counts -/

/-- `T_START`: least time the line is driven low as start pulse (R8). -/
abbrev Config.tStart : Nat := 20000
/-- `T_RELEASE`: least time the line is driven high before release (R8). -/
abbrev Config.tRelease : Nat := 30
/-- `T_ACK_LOW`: timeout of the wait for the acknowledgment's low phase (R8). -/
abbrev Config.tAckLow : Nat := 200
/-- `T_ACK_HIGH`: timeout of the wait for the acknowledgment's high phase (R8). -/
abbrev Config.tAckHigh : Nat := 200
/-- `T_RETRY`: least wait between a failed attempt and the next (R8). -/
abbrev Config.tRetry : Nat := 10000
/-- `N_ATTEMPTS`: handshake attempts per READ (R8, R94). -/
abbrev Config.nAttempts : Nat := 2
/-- `T_BIT_LOW`: timeout of the wait for a bit-slot's low phase (R8). -/
abbrev Config.tBitLow : Nat := 100
/-- `T_MEAS`: budget of the high-pulse measurement (R8). -/
abbrev Config.tMeas : Nat := 200
/-- `TH_BIT`: pulse-width threshold (R8, R100). -/
abbrev Config.thBit : Nat := 50
/-- `N_BITS`: bit-slots per frame (R8). -/
abbrev Config.nBits : Nat := 40
/-- `N_BYTES`: bytes per frame (R8). -/
abbrev Config.nBytes : Nat := 5

/-! ## The inputs of a step -/

/-- A host access to the port space other than a write of CMD (R45). A write of port 0 is the input `cmd`. -/
inductive HostAccess where
  /-- A read of port `port`. -/
  | readPort (port : Nat)
  /-- A write of port `k + 1`: every such port is read only or does not exist. -/
  | writeAbove (k : Nat)
  deriving DecidableEq, Repr, Inhabited

/-- The inputs of one step (R7, R14), with the host's port access made in the same step (R45, R176). -/
structure Input where
  /-- `rst`: the reset input (R161). -/
  rst : Bool
  /-- `cmd`: the command word written in this step, or absent (R60). -/
  cmd : Option CmdWord
  /-- `now`: the microsecond clock's answer, sampled once per step (R7). -/
  now : Time
  /-- `lvl`: the level a pin read returns in this step (R42). -/
  lvl : Level
  /-- The host's port access in this step, or absent. -/
  host : Option HostAccess
  deriving DecidableEq, Repr, Inhabited

/-! ## Free values -/

/-- FREE VALUE (log 1): the inputs of a step the input list says nothing of. The spec leaves every input open
(R42, R124), so nothing can be proved of this one. -/
opaque Config.freeInput : Nat → Input

/-- FREE VALUE (log 4): the `HUM` byte a read of RESULT returns while no reading was ever taken (R62, U4). -/
opaque Config.freeHum : Nat → Byte

/-- FREE VALUE (log 4): the `TEMP` byte a read of RESULT returns while no reading was ever taken (R62, U4). -/
opaque Config.freeTemp : Nat → Byte

/-- FREE VALUE (log 18): the open platform parameter `HOST_BASE` (R45, D6). -/
opaque Config.hostBase : Nat

/-- FREE VALUE (log 18): the stride between two ports, which the platform chooses too (R45). -/
opaque Config.hostStride : Nat

/-- The bus address at which a platform maps a port (R45). The block itself sees port numbers only. -/
def Config.portAddress (port : Nat) : Nat := Config.hostBase + port * Config.hostStride

end Sys2Proof
end

