-- ==== Sys2Proof/Machine/State.lean ====
section
/-! DEFINITION. The state of the block (10_state.md R13 to R31, R34), the reasons a step can stop, and the state
after reset. -/

namespace Sys2Proof.Machine

open Sys2Proof

/-- The frame buffer as memory: bytes at addresses 0 to 4, in the canonical form `Memory.wf` of Ops.lean. An
address that is not listed reads 0, the value R34 and R96 give all five bytes (log 14). -/
abbrev Memory := List Host.Cell

/-- The pin operations of the history (R31). -/
inductive PinOp where
  | setDir (d : Dir)
  | setLevel (l : Level)
  | pullUp (b : Bool)
  | readLine (l : Level)
  deriving DecidableEq, Repr

/-- One entry of the history: an operation and the `now` of its step (R31). -/
structure PinEvent where
  op : PinOp
  now : Time
  deriving DecidableEq, Repr

/-- Why a step stops with a fault. -/
inductive Fault where
  /-- Raised by STORE_BIT for a bit index of 40 or more: the byte `i div 8` does not exist (R36, R39). SAFE: no
  state that reset reaches holds such an index (R32). -/
  | frameBufferAddress
  deriving DecidableEq, Repr

/-- Why a step is refused. -/
inductive Refusal where
  /-- Raised by an arm of `exec` whose instruction has no meaning yet. SAFE: the machine stops. -/
  | notModelled (mnemonic : String)
  /-- Raised by READ with `REF = 1` while `inited = 0`: the spec gives it no meaning and says a model refuses it
  (R122, U3). SAFE. -/
  | readBeforeInit
  /-- Raised by status code 7: reserved, never produced, nothing may be assumed of it (R142, U2). SAFE. -/
  | reservedTimeoutBitSync
  /-- Raised by status code 8: reserved, never produced, nothing may be assumed of it (R142, U2). SAFE. -/
  | reservedTimeoutHighPulse
  /-- Raised by a host read of CMD, a host write of another port, or a port number above 3: a model refuses them
  (R45, U8). SAFE. -/
  | outsidePortInterface
  deriving DecidableEq, Repr

/-- The state. The fields down to `hist` are the spec's (R13); the last four are the model's own (log 1, log 2,
log 9). The hardwired `pin_pd` is the accessor `State.pinPd`. -/
structure State where
  /-- `st`, the sequencing state (R16). -/
  st : St
  /-- `att`, the index of the current handshake attempt (R17). -/
  att : BitVec 1
  /-- `i`, the index of the bit-slot being received (R18). -/
  i : BitVec 6
  /-- `hi`, whether the line has been seen high in this bit-slot (R19). -/
  hi : Bool
  /-- `t0`, the start of the wait in progress (R20). -/
  t0 : Time
  /-- `tr`, the time of the rise poll (R21). -/
  tr : Time
  /-- `dur`, the last measured high-pulse duration (R22). -/
  dur : Time
  /-- `FB[0..4]`, the frame buffer (R23). -/
  fb : Memory
  /-- `code`, the status of the last completed command (R24). -/
  code : Code
  /-- `hum`, or no value until the first successful READ (R25). -/
  hum : Option Byte
  /-- `temp`, or no value until the first successful READ (R25). -/
  temp : Option Byte
  /-- `rvalid` (R26). -/
  rvalid : Bool
  /-- `inited` (R27). -/
  inited : Bool
  /-- `pin_dir` (R28). -/
  pinDir : Dir
  /-- `pin_out`, the output latch (R29). -/
  pinOut : Level
  /-- `pin_pu` (R30). -/
  pinPu : Bool
  /-- The pin-operation history, oldest first (R31). -/
  hist : List PinEvent
  /-- The word the host's last port read returned, if it made one (R45). -/
  hostWord : Option HostWord
  /-- The inputs presented to the next step (R7, R14). -/
  inp : Input
  /-- The inputs of the steps after it, first one first. -/
  env : List Input
  /-- The counter the free values are drawn with. -/
  fresh : Nat
  deriving DecidableEq, Repr

/-- The state after reset: the values of R34. The four model fields: no host read yet, no input fixed, and the
first step's inputs free (log 2). -/
def State.reset : State where
  st := .idle
  att := 0#1
  i := 0#6
  hi := false
  t0 := 0#64
  tr := 0#64
  dur := 0#64
  fb := []
  code := .ok
  hum := none
  temp := none
  rvalid := false
  inited := false
  pinDir := .input
  pinOut := .high
  pinPu := false
  hist := []
  hostWord := none
  inp := Config.freeInput 0
  env := []
  fresh := 1

end Sys2Proof.Machine
end

