-- ==== Sys2Proof/Machine/Ops.lean ====
section
/-! DEFINITION. The named operations over the registers, the pin, the frame buffer and the inputs; the timing
primitives (40_timing_primitives.md); the entry procedures (R125); taking an error, FAIL (R145), with CLEANUP
(R103) before it; and the reset action (R161). There is no return from an error (R150). -/

namespace Sys2Proof.Machine

open Sys2Proof

/-! ## Registers -/

/-- `now`: this step's time sample (R7). -/
abbrev State.now (s : State) : Time := s.inp.now

/-- `pin_pd`: hardwired 0 (R30). -/
def State.pinPd (_s : State) : Bool := false

/-- `st <- state`, for the untimed states (R125). -/
def State.goto (s : State) (state : St) : State := { s with st := state }

/-- `t0 <- now ; st <- state`, for the timed states (R125). -/
def State.enter (s : State) (state : St) : State := { s with t0 := s.inp.now, st := state }

/-- `code <- c` (R24). -/
def State.setCode (s : State) (c : Code) : State := { s with code := c }

/-- `att <- a` (R17). -/
def State.setAtt (s : State) (a : BitVec 1) : State := { s with att := a }

/-- `i <- k` (R18). -/
def State.setIndex (s : State) (k : BitVec 6) : State := { s with i := k }

/-- `hi <- b` (R19). -/
def State.setHi (s : State) (b : Bool) : State := { s with hi := b }

/-- `tr <- t` (R21). -/
def State.setTr (s : State) (t : Time) : State := { s with tr := t }

/-- `dur <- d` (R22). -/
def State.setDur (s : State) (d : Time) : State := { s with dur := d }

/-- The frame buffer becomes `m` (R23). -/
def State.setFb (s : State) (m : Memory) : State := { s with fb := m }

/-- `hum <- h ; temp <- t ; rvalid <- 1`, in one step (R41, R111). -/
def State.setResult (s : State) (h t : Byte) : State :=
  { s with hum := some h, temp := some t, rvalid := true }

/-- `inited <- 1` (R27). -/
def State.setInited (s : State) : State := { s with inited := true }

/-- A host read returns `w` (R45); `drawn` free values were used for it. -/
def State.setHostWord (s : State) (w : HostWord) (drawn : Nat) : State :=
  { s with hostWord := some w, fresh := s.fresh + drawn }

/-! ## Pin operations (R31, R43): each writes its register and appends one event -/

/-- `pin.SetDir(d)` (R11, R28). -/
def State.setDir (s : State) (d : Dir) : State :=
  { s with pinDir := d, hist := s.hist ++ [⟨.setDir d, s.inp.now⟩] }

/-- `pin.SetLevel(l)` (R11, R29). -/
def State.setLevel (s : State) (l : Level) : State :=
  { s with pinOut := l, hist := s.hist ++ [⟨.setLevel l, s.inp.now⟩] }

/-- `pin.PullUp(b)` (R11, R30). -/
def State.pullUp (s : State) (b : Bool) : State :=
  { s with pinPu := b, hist := s.hist ++ [⟨.pullUp b, s.inp.now⟩] }

/-- `pin.Read()`: returns this step's `lvl`, which the event records (R31, R42, R44). -/
def State.readLine (s : State) : State :=
  { s with hist := s.hist ++ [⟨.readLine s.inp.lvl, s.inp.now⟩] }

/-! ## The frame buffer (R36 to R40) -/

/-- The byte at an address; an address that is not listed reads 0. -/
def Memory.read (m : Memory) (a : Nat) : Byte :=
  match m with
  | [] => 0#8
  | (b, v) :: rest => if a = b then v else Memory.read rest a

/-- The memory with the byte at `a` set to `v`, in canonical form. -/
def Memory.write (m : Memory) (a : Nat) (v : Byte) : Memory :=
  match m with
  | [] => if v = 0#8 then [] else [(a, v)]
  | (b, w) :: rest =>
    if a < b then (if v = 0#8 then (b, w) :: rest else (a, v) :: (b, w) :: rest)
    else if a = b then (if v = 0#8 then rest else (a, v) :: rest)
    else (b, w) :: Memory.write rest a v

/-- The cells from address `lo` on are in canonical form: strictly rising addresses below 5, no zero byte. -/
def Memory.wfFrom (lo : Nat) : Memory → Bool
  | [] => true
  | (a, v) :: rest => decide (lo ≤ a) && decide (a < Config.nBytes) && decide (v ≠ 0#8) && Memory.wfFrom (a + 1) rest

/-- The canonical form of the frame buffer: addresses strictly rising, all of them below 5, no listed byte equal
to 0, the value an unlisted address reads as. -/
def Memory.wf (m : Memory) : Bool := Memory.wfFrom 0 m

/-- The buffer that holds five given bytes (R37). -/
def Memory.ofBytes (b0 b1 b2 b3 b4 : Byte) : Memory :=
  Memory.write (Memory.write (Memory.write (Memory.write (Memory.write [] 0 b0) 1 b1) 2 b2) 3 b3) 4 b4

/-- `FB[k]` (R11). -/
def State.byteAt (s : State) (k : Nat) : Byte := Memory.read s.fb k

/-- The byte of bit-slot `i` (R38). -/
def slotByte (k : BitVec 6) : Nat := k.toNat / 8

/-- The bit position of bit-slot `i` in its byte: most significant first (R38). -/
def slotBit (k : BitVec 6) : Nat := 7 - k.toNat % 8

/-- The byte with only the bit of slot `i` set. -/
def slotMask (k : BitVec 6) : Byte := 1#8 <<< slotBit k

/-- STORE_BIT(`i`, `b`) (R101): sets the slot's bit when `b = 1`, writes nothing when `b = 0`. An index of 40 or
more addresses a byte that does not exist. -/
def storeBit (b : Bool) (s : State) : Host.Outcome State Fault Refusal :=
  if b then
    if slotByte s.i < Config.nBytes then
      .next (s.setFb (Memory.write s.fb (slotByte s.i) (s.byteAt (slotByte s.i) ||| slotMask s.i)))
    else .fault .frameBufferAddress
  else .next s

/-! ## Time (R77) -/

/-- `elapsed(t) = (now - t) mod 2^64` (R77). -/
def elapsed (now t : Time) : Time := now - t

/-- Microseconds since the start of the wait in progress. -/
def State.waited (s : State) : Nat := (elapsed s.inp.now s.t0).toNat

/-! ## The timing primitives (R78 to R80, R84) -/

/-- The test of DELAY(`d`) and of SLEEP(`d`) (R78, R84): not strict. -/
def delayOver (d : Nat) (s : State) : Bool := decide (d ≤ s.waited)

/-- The test of a timeout (R77): strict. -/
def timedOut (limit : Nat) (s : State) : Bool := decide (limit < s.waited)

/-- What one poll of WAIT_LEVEL gives (R79). -/
inductive WaitPoll where
  | ok
  | timeout
  | stay
  deriving DecidableEq, Repr

/-- One poll of WAIT_LEVEL(`target`, `limit`): the level is looked at first, then the time (R76, R79). Its
`pin.Read()` is `State.readLine`, run by the state that polls. -/
def waitLevel (target : Level) (limit : Nat) (s : State) : WaitPoll :=
  if s.inp.lvl = target then .ok else if timedOut limit s then .timeout else .stay

/-- What one poll of MEASURE_HIGH gives (R80). -/
inductive MeasurePoll where
  | rise
  | fall
  | timeout
  | stay
  deriving DecidableEq, Repr

/-- One poll of MEASURE_HIGH(`limit`) (R80): the rise poll, the fall poll, then the time. -/
def measureHigh (limit : Nat) (s : State) : MeasurePoll :=
  if s.hi = false ∧ s.inp.lvl = .high then .rise
  else if s.hi = true ∧ s.inp.lvl = .low then .fall
  else if timedOut limit s then .timeout
  else .stay

/-! ## Entry procedures (R125) -/

/-- `enter(START_LOW)` (R86). -/
def enterStartLow (s : State) : State := ((s.setDir .output).setLevel .low).enter .startLow

/-- `enter(START_REL)` (R88). -/
def enterStartRel (s : State) : State := (s.setLevel .high).enter .startRel

/-- LISTEN (R89). -/
def startListening (s : State) : State := (s.setDir .input).pullUp true

/-- `enter(MEAS_HIGH)` (R98). -/
def enterMeasHigh (s : State) : State := (s.setHi false).enter .measHigh

/-! ## Taking an error -/

/-- CLEANUP (R103). -/
def cleanup (s : State) : State := s.pullUp false

/-- FAIL(`e`), written `raise e` in the rules (R145): `code <- e ; st <- FAILED`, nothing else. The caller has
run `cleanup` if the pull-up was on. -/
def fail (e : ErrorKind) (s : State) : State := (s.setCode (.error e)).goto .failed

/-- The end of a READ that succeeds: `code <- 0 ; st <- DONE` (R109, R128). -/
def succeed (s : State) : State := (s.setCode .ok).goto .done

/-- HS_FAIL(`e`) (R92): one retry, taken through RETRY_WAIT; the last attempt's error is raised. -/
def hsFail (e : ErrorKind) (s : State) : State :=
  if s.att.toNat + 1 < Config.nAttempts then ((cleanup s).setAtt (s.att + 1#1)).enter .retryWait
  else fail e (cleanup s)

/-- HS_OK (R96): the buffer zeroed, the index at 0, on to the first bit-slot. -/
def hsOk (s : State) : State := ((s.setFb []).setIndex 0#6).enter .bitLow

/-- NEXT_BIT (R102). -/
def nextBit (s : State) : State :=
  if s.i.toNat = Config.nBits - 1 then (cleanup s).goto .check else (s.setIndex (s.i + 1#6)).enter .bitLow

/-! ## Reset (R161) and the inputs of the next step -/

/-- The reset action (R161): every register at its reset value, the history empty. The inputs to come and the
word the host holds are not the block's, and stay (log 10). -/
def doReset (s : State) : State :=
  { State.reset with hostWord := s.hostWord, inp := s.inp, env := s.env, fresh := s.fresh }

/-- The next step's inputs are presented: the first of the list, or free ones where the list says nothing. -/
def present (s : State) : State :=
  match s.env with
  | [] => { s with inp := Config.freeInput s.fresh, fresh := s.fresh + 1 }
  | e :: rest => { s with inp := e, env := rest }

end Sys2Proof.Machine
end

