-- ==== Sys2Proof/Machine/Flags.lean ====
section
/-! DEFINITION. The flags the block computes: `busy` and `cmd_ready` (R15), the bit a pulse width stands for
(R100), and the checksum test (R109, R110). -/

namespace Sys2Proof.Machine

open Sys2Proof

/-- `busy` as a function of `st` (R15): 0 in IDLE, DONE and FAILED. -/
def stBusy : St → Bool
  | .idle => false
  | .startLow => true
  | .startRel => true
  | .ackLow => true
  | .ackHigh => true
  | .retryWait => true
  | .bitLow => true
  | .measHigh => true
  | .check => true
  | .done => false
  | .failed => false

/-- `busy` (R15). -/
def State.busy (s : State) : Bool := stBusy s.st

/-- `cmd_ready = not busy` (R15). -/
def State.cmdReady (s : State) : Bool := !s.busy

/-- CLASSIFY(`dur`): 1 exactly when `dur > TH_BIT` (R100). -/
def classify (dur : Time) : Bool := decide (Config.thBit < dur.toNat)

/-- The sum of the first four bytes, modulo 256 (R110). -/
def checksum (h f t g : Byte) : Byte := h + f + t + g

/-- The test of CHECK on the five bytes (R109, R115). -/
def accept (h f t g c : Byte) : Bool := decide (c = checksum h f t g)

end Sys2Proof.Machine
end

