-- ==== Sys2Proof/Machine/Commands.lean ====
section
/-! DEFINITION. The host commands (44_commands.md R117 to R123). A command presented while `busy = 1` has no
effect of any kind (R123). -/

namespace Sys2Proof.Machine

open Sys2Proof

/-- A command's effect when it is accepted, that is when `busy = 0`; nothing otherwise (R117, R123). -/
def whenReady (effect : Host.Outcome State Fault Refusal) (s : State) : Host.Outcome State Fault Refusal :=
  if s.busy then .next s else effect

/-- NOP: nothing, in any state (R118). -/
def execNop (_ref : Bool) (s : State) : Host.Outcome State Fault Refusal := .next s

/-- The reserved command: ignored like NOP, in any state (R118, U5). -/
def execReserved (_ref : Bool) (s : State) : Host.Outcome State Fault Refusal := .next s

/-- INIT with `REF = 1` (R120). -/
def execInit (s : State) : Host.Outcome State Fault Refusal :=
  whenReady (.next (((((s.setDir .output).setLevel .high).setInited).setCode .ok).goto .idle)) s

/-- INIT with `REF = 0`: the null-reference guard (R119). -/
def execInitNull (s : State) : Host.Outcome State Fault Refusal :=
  whenReady (.next (fail .nullReference s)) s

/-- READ with `REF = 1` (R121); refused before an INIT (R122). -/
def execRead (s : State) : Host.Outcome State Fault Refusal :=
  whenReady (if s.inited then .next (enterStartLow (s.setAtt 0#1)) else .refused .readBeforeInit) s

/-- READ with `REF = 0`: the null-reference guard (R119). -/
def execReadNull (s : State) : Host.Outcome State Fault Refusal :=
  whenReady (.next (fail .nullReference s)) s

/-- The rest states' operation: the command of this step's inputs is accepted, an absent one is the same as NOP
(R60, R117, R118, R124). -/
def acceptCommand (s : State) : Host.Outcome State Fault Refusal :=
  match s.inp.cmd with
  | none => .next s
  | some w =>
    if cmdOp w = 1#2 then (if cmdRef w then execInit s else execInitNull s)
    else if cmdOp w = 2#2 then (if cmdRef w then execRead s else execReadNull s)
    else if cmdOp w = 0#2 then execNop (cmdRef w) s
    else execReserved (cmdRef w) s

end Sys2Proof.Machine
end

