-- ==== Sys2Proof/Machine/FrameDecoder.lean ====
section
/-! DEFINITION. The states of the bit loop (42_frame_decoder.md R98 to R102). -/

namespace Sys2Proof.Machine

open Sys2Proof

/-- BIT_LOW (R98). -/
def execStBitLow (s : State) : Host.Outcome State Fault Refusal :=
  match waitLevel .low Config.tBitLow s with
  | .ok => .next (enterMeasHigh s.readLine)
  | .timeout => .next (fail .bitStartTimeout (cleanup s.readLine))
  | .stay => .next s.readLine

/-- The fall poll of MEAS_HIGH after its `Read`: `dur <- elapsed(tr)`, CLASSIFY, STORE_BIT, NEXT_BIT (R99). -/
def fallPoll (s : State) : Host.Outcome State Fault Refusal :=
  match storeBit (classify (elapsed s.inp.now s.tr)) (s.setDur (elapsed s.inp.now s.tr)) with
  | .next t => .next (nextBit t)
  | .fault r => .fault r
  | .refused r => .refused r

/-- MEAS_HIGH (R99). -/
def execStMeasHigh (s : State) : Host.Outcome State Fault Refusal :=
  match measureHigh Config.tMeas s with
  | .rise => .next ((s.readLine.setHi true).setTr s.inp.now)
  | .fall => fallPoll s.readLine
  | .timeout => .next (fail .highMeasureTimeout (cleanup s.readLine))
  | .stay => .next s.readLine

end Sys2Proof.Machine
end

