-- ==== Sys2Proof/Machine/Handshake.lean ====
section
/-! DEFINITION. The states of the handshake (41_handshake.md R87 to R93). -/

namespace Sys2Proof.Machine

open Sys2Proof

/-- START_LOW (R87). -/
def execStStartLow (s : State) : Host.Outcome State Fault Refusal :=
  .next (if delayOver Config.tStart s then enterStartRel s else s)

/-- START_REL (R88), with LISTEN at its end (R89). -/
def execStStartRel (s : State) : Host.Outcome State Fault Refusal :=
  .next (if delayOver Config.tRelease s then (startListening s).enter .ackLow else s)

/-- ACK_LOW (R90). -/
def execStAckLow (s : State) : Host.Outcome State Fault Refusal :=
  match waitLevel .low Config.tAckLow s with
  | .ok => .next (s.readLine.enter .ackHigh)
  | .timeout => .next (hsFail .handshakeTimeoutLow s.readLine)
  | .stay => .next s.readLine

/-- ACK_HIGH (R91). -/
def execStAckHigh (s : State) : Host.Outcome State Fault Refusal :=
  match waitLevel .high Config.tAckHigh s with
  | .ok => .next (hsOk s.readLine)
  | .timeout => .next (hsFail .handshakeTimeoutHigh s.readLine)
  | .stay => .next s.readLine

/-- RETRY_WAIT (R93). -/
def execStRetryWait (s : State) : Host.Outcome State Fault Refusal :=
  .next (if delayOver Config.tRetry s then enterStartLow s else s)

end Sys2Proof.Machine
end

