-- ==== Sys2Proof/Machine/Operands.lean ====
section
/-! DEFINITION. The words the block presents to the host (R61 to R63), and the value a read of a result register
gives (R62, U4). -/

namespace Sys2Proof.Machine

open Sys2Proof

/-- The `HUM` byte of RESULT: the register, or a free value while it holds none (R62, U4). -/
def State.humByte (s : State) : Byte :=
  match s.hum with
  | some v => v
  | none => Config.freeHum s.fresh

/-- The `TEMP` byte of RESULT: the register, or a free value while it holds none (R62, U4). -/
def State.tempByte (s : State) : Byte :=
  match s.temp with
  | some v => v
  | none => Config.freeTemp s.fresh

/-- Whether the pin drives the line, as PINCTL's `DIR` bit: 1 is `OUT` (R63). -/
def dirBit : Dir → Bool
  | .output => true
  | .input => false

/-- A level as a bit (R10). -/
def levelBit : Level → Bool
  | .high => true
  | .low => false

/-- The STATUS word (R61). -/
def State.statusWord (s : State) : HostWord :=
  packStatus (encodeSt s.st) s.rvalid s.inited s.busy (encodeCode s.code)

/-- The RESULT word (R62). -/
def State.resultWord (s : State) : HostWord := packResult s.tempByte s.humByte

/-- The PINCTL word (R63). -/
def State.pinctlWord (s : State) : HostWord :=
  packPinctl s.pinPd s.pinPu (levelBit s.pinOut) (dirBit s.pinDir)

/-- STATUS as an instruction: the word presented, with its fields (R61). -/
def State.statusInstr (s : State) : Instr :=
  .status (encodeSt s.st) s.rvalid s.inited s.busy (encodeCode s.code)

/-- RESULT as an instruction: the word presented, with its fields (R62). -/
def State.resultInstr (s : State) : Instr := .result s.tempByte s.humByte

/-- PINCTL as an instruction: the word presented, with its fields (R63). -/
def State.pinctlInstr (s : State) : Instr :=
  .pinctl s.pinPd s.pinPu (levelBit s.pinOut) (dirBit s.pinDir)

end Sys2Proof.Machine
end

