-- ==== Sys2Proof/Machine/HostWords.lean ====
section
/-! DEFINITION. The host's reads of STATUS, RESULT and PINCTL (R45, R61 to R63). The block presents the word of
its own state, so the fields an instruction carries are not looked at: the ports are read only (log 9). A read
changes nothing in the block (R44). -/

namespace Sys2Proof.Machine

open Sys2Proof

/-- A read of port 1 (R61). -/
def execStatus (_stCode : BitVec 4) (_rvalid _inited _busy : Bool) (_code : BitVec 4) (s : State) :
    Host.Outcome State Fault Refusal :=
  .next (s.setHostWord s.statusWord 0)

/-- A read of port 2 (R62); while no reading was ever taken its bytes are free values (U4). -/
def execResult (_temp _hum : Byte) (s : State) : Host.Outcome State Fault Refusal :=
  .next (s.setHostWord s.resultWord (if s.rvalid then 0 else 1))

/-- A read of port 3 (R63). -/
def execPinctl (_pd _pu _out _dir : Bool) (s : State) : Host.Outcome State Fault Refusal :=
  .next (s.setHostWord s.pinctlWord 0)

end Sys2Proof.Machine
end

