-- ==== Sys2Proof/Machine/RestStates.lean ====
section
/-! DEFINITION. The rest states IDLE, DONE and FAILED (R117, R127 to R129): nothing but accepting a command. -/

namespace Sys2Proof.Machine

open Sys2Proof

/-- IDLE (R127). -/
def execStIdle (s : State) : Host.Outcome State Fault Refusal := acceptCommand s

/-- DONE (R128). -/
def execStDone (s : State) : Host.Outcome State Fault Refusal := acceptCommand s

/-- FAILED (R129). -/
def execStFailed (s : State) : Host.Outcome State Fault Refusal := acceptCommand s

end Sys2Proof.Machine
end

