-- ==== Sys2Proof/Machine/StatusCodes.lean ====
section
/-! DEFINITION. The status codes as operations (R65, R135 to R142): the write that ends a command with that
status (R145 for the error kinds, R109 and R128 for success; log 7). -/

namespace Sys2Proof.Machine

open Sys2Proof

/-- Status 0 (R128). -/
def execCodeOk (s : State) : Host.Outcome State Fault Refusal := .next (succeed s)

/-- Status 1 (R136). -/
def execCodeNullReference (s : State) : Host.Outcome State Fault Refusal := .next (fail .nullReference s)

/-- Status 2 (R137). -/
def execCodeHandshakeTimeoutLow (s : State) : Host.Outcome State Fault Refusal :=
  .next (fail .handshakeTimeoutLow s)

/-- Status 3 (R138). -/
def execCodeHandshakeTimeoutHigh (s : State) : Host.Outcome State Fault Refusal :=
  .next (fail .handshakeTimeoutHigh s)

/-- Status 4 (R139). -/
def execCodeBitStartTimeout (s : State) : Host.Outcome State Fault Refusal := .next (fail .bitStartTimeout s)

/-- Status 5 (R140). -/
def execCodeHighMeasureTimeout (s : State) : Host.Outcome State Fault Refusal :=
  .next (fail .highMeasureTimeout s)

/-- Status 6 (R141). -/
def execCodeChecksumMismatch (s : State) : Host.Outcome State Fault Refusal := .next (fail .checksumMismatch s)

/-- Status 7: reserved, no rule raises it (R142, U2). -/
def execCodeReservedTimeoutBitSync (_s : State) : Host.Outcome State Fault Refusal :=
  .refused .reservedTimeoutBitSync

/-- Status 8: reserved, no rule raises it (R142, U2). -/
def execCodeReservedTimeoutHighPulse (_s : State) : Host.Outcome State Fault Refusal :=
  .refused .reservedTimeoutHighPulse

end Sys2Proof.Machine
end

