-- ==== Sys2Proof/Machine/Validator.lean ====
section
/-! DEFINITION. The frame validator (43_frame_validator.md R109 to R112) and the frame (R57). -/

namespace Sys2Proof.Machine

open Sys2Proof

/-- The validation of the buffer (R109): acceptance and extraction (R111), or rejection (R112). -/
def validate (s : State) : State :=
  if accept (s.byteAt 0) (s.byteAt 1) (s.byteAt 2) (s.byteAt 3) (s.byteAt 4) then
    succeed (s.setResult (s.byteAt 0) (s.byteAt 2))
  else fail .checksumMismatch s

/-- CHECK (R109). -/
def execStCheck (s : State) : Host.Outcome State Fault Refusal := .next (validate s)

/-- A frame, whole (R57, R58): its bytes stand in the buffer in order of arrival and are validated (R109; log 8). -/
def execFrame (h f t g c : Byte) (s : State) : Host.Outcome State Fault Refusal :=
  .next (validate (s.setFb (Memory.ofBytes h f t g c)))

end Sys2Proof.Machine
end

