-- ==== Sys2Proof/Machine/Dispatch.lean ====
section
/-! DEFINITION. One arm per constructor of `Instr`, each one call of its meaning. -/

namespace Sys2Proof.Machine

open Sys2Proof

def exec (i : Instr) (s : State) : Host.Outcome State Fault Refusal :=
  match i with
  | .nop ref => Sys2Proof.Machine.execNop ref s
  | .init => Sys2Proof.Machine.execInit s
  | .initNull => Sys2Proof.Machine.execInitNull s
  | .read => Sys2Proof.Machine.execRead s
  | .readNull => Sys2Proof.Machine.execReadNull s
  | .reserved ref => Sys2Proof.Machine.execReserved ref s
  | .stIdle => Sys2Proof.Machine.execStIdle s
  | .stStartLow => Sys2Proof.Machine.execStStartLow s
  | .stStartRel => Sys2Proof.Machine.execStStartRel s
  | .stAckLow => Sys2Proof.Machine.execStAckLow s
  | .stAckHigh => Sys2Proof.Machine.execStAckHigh s
  | .stRetryWait => Sys2Proof.Machine.execStRetryWait s
  | .stBitLow => Sys2Proof.Machine.execStBitLow s
  | .stMeasHigh => Sys2Proof.Machine.execStMeasHigh s
  | .stCheck => Sys2Proof.Machine.execStCheck s
  | .stDone => Sys2Proof.Machine.execStDone s
  | .stFailed => Sys2Proof.Machine.execStFailed s
  | .codeOk => Sys2Proof.Machine.execCodeOk s
  | .codeNullReference => Sys2Proof.Machine.execCodeNullReference s
  | .codeHandshakeTimeoutLow => Sys2Proof.Machine.execCodeHandshakeTimeoutLow s
  | .codeHandshakeTimeoutHigh => Sys2Proof.Machine.execCodeHandshakeTimeoutHigh s
  | .codeBitStartTimeout => Sys2Proof.Machine.execCodeBitStartTimeout s
  | .codeHighMeasureTimeout => Sys2Proof.Machine.execCodeHighMeasureTimeout s
  | .codeChecksumMismatch => Sys2Proof.Machine.execCodeChecksumMismatch s
  | .codeReservedTimeoutBitSync => Sys2Proof.Machine.execCodeReservedTimeoutBitSync s
  | .codeReservedTimeoutHighPulse => Sys2Proof.Machine.execCodeReservedTimeoutHighPulse s
  | .frame h f t g c => Sys2Proof.Machine.execFrame h f t g c s
  | .status stCode rvalid inited busy code => Sys2Proof.Machine.execStatus stCode rvalid inited busy code s
  | .result temp hum => Sys2Proof.Machine.execResult temp hum s
  | .pinctl pd pu out dir => Sys2Proof.Machine.execPinctl pd pu out dir s

end Sys2Proof.Machine
end

