-- ==== Sys2Proof/Machine/Fetch.lean ====
section
/-! DEFINITION. What a step runs (R124): the host's port access with the values before the step (R176), then
reset or the operation `st` codes; and how an instruction is placed so that the next step runs it. -/

namespace Sys2Proof.Machine

open Sys2Proof

/-- The host's port access of this step (R45); accesses outside the interface are refused (U8). -/
def hostPort (s : State) : Host.Outcome State Fault Refusal :=
  match s.inp.host with
  | none => .next s
  | some (.readPort p) =>
    if p = 1 then exec s.statusInstr s
    else if p = 2 then exec s.resultInstr s
    else if p = 3 then exec s.pinctlInstr s
    else .refused .outsidePortInterface
  | some (.writeAbove _) => .refused .outsidePortInterface

/-- The operation of the step: what `st` codes (R16, R124). In a rest state it is the one that accepts the
command of the step's inputs. -/
def fetch (s : State) : Instr := stInstr s.st

/-- The block's own part of a step (R124): reset has priority over everything (R161). -/
def blockStep (s : State) : Host.Outcome State Fault Refusal :=
  if s.inp.rst then .next (doReset s) else exec (fetch s) s

/-- After an outcome: a next state has the next step's inputs presented to it. -/
def thenPresent (o : Host.Outcome State Fault Refusal) : Host.Outcome State Fault Refusal :=
  match o with
  | .next t => .next (present t)
  | .fault r => .fault r
  | .refused r => .refused r

/-- One outcome after another: the second part runs on the first part's next state. -/
def andThen (o : Host.Outcome State Fault Refusal) (f : State → Host.Outcome State Fault Refusal) :
    Host.Outcome State Fault Refusal :=
  match o with
  | .next t => f t
  | .fault r => .fault r
  | .refused r => .refused r

/-- Inputs that present a command and a host access to the block, at the time the wait in progress began. -/
def placedInput (s : State) (cmd : Option CmdWord) (host : Option HostAccess) : Input :=
  { rst := false, cmd := cmd, now := s.t0, lvl := .high, host := host }

/-- The state's rest state: its own if it is at rest, else IDLE. -/
def restOf (s : State) : St := if s.busy then .idle else s.st

/-- The buffer that holds a 40-bit frame, slot 0 being bit 39 (R38, R57). -/
def frameBytes (w : BitVec 40) : Memory :=
  Memory.ofBytes (w.extractLsb' 32 8) (w.extractLsb' 24 8) (w.extractLsb' 16 8) (w.extractLsb' 8 8) (w.extractLsb' 0 8)

/-- The state in which the next step runs the instruction a channel's word stands for: a command is presented to
a block at rest, a state code stands in `st`, a frame stands in the buffer of a block in CHECK, and a host word
is read from a block at rest. No step runs a status code by itself: one is written only inside another
operation (R24). -/
def placeWord (s : State) (ch : Channel) (w : Nat) : State :=
  match ch with
  | .cmd => { s with st := restOf s, inp := placedInput s (some (BitVec.ofNat 3 w)) none }
  | .st => { s with st := (decodeSt (BitVec.ofNat 4 w)).getD s.st, inp := placedInput s none none }
  | .code => s
  | .frame => { s with st := .check, fb := frameBytes (BitVec.ofNat 40 w), inp := placedInput s none none }
  | .status => { s with st := restOf s, inp := placedInput s none (some (.readPort 1)) }
  | .result => { s with st := restOf s, inp := placedInput s none (some (.readPort 2)) }
  | .pinctl => { s with st := restOf s, inp := placedInput s none (some (.readPort 3)) }

end Sys2Proof.Machine
end

