-- ==== Sys2Proof/Machine/Step.lean ====
section
/-! DEFINITION. One step of the machine (R7, R124), and how an instruction is placed for the next step. -/

namespace Sys2Proof.Machine

open Sys2Proof

/-- One step: the host's port access, the block's own step, then the next step's inputs. -/
def step (s : State) : Host.Outcome State Fault Refusal :=
  thenPresent (andThen (hostPort s) blockStep)

/-- The state in which the next step runs the instruction an opcode-table word stands for; a word the decoder
refuses changes nothing (log 2, log 5). -/
def State.withFetchWord (s : State) (nbits w : Nat) : State :=
  match decodeTableWord nbits w with
  | some i => placeWord s (encode i).1 (encode i).2
  | none => s

end Sys2Proof.Machine
end

