-- ==== Sys2Proof/Safety.lean ====
section
/-! DEFINITION. What a safe run is, in the terms the claims use: the invariant of R32 and R146, the history read
back, the graph of R126, what a READ's outcome may depend on (R33, R132), and how far a READ has to go (R133). -/

namespace Sys2Proof.Machine

open Sys2Proof

/-! ## The invariant of the registers (R32, with R29, R128, R129) -/

/-- The four states in which the block listens and polls (R36). -/
def polling : St → Bool
  | .idle => false
  | .startLow => false
  | .startRel => false
  | .ackLow => true
  | .ackHigh => true
  | .retryWait => false
  | .bitLow => true
  | .measHigh => true
  | .check => false
  | .done => false
  | .failed => false

/-- The states in which the pin is an input (R32, R128). -/
def listening : St → Bool
  | .idle => false
  | .startLow => false
  | .startRel => false
  | .ackLow => true
  | .ackHigh => true
  | .retryWait => true
  | .bitLow => true
  | .measHigh => true
  | .check => true
  | .done => true
  | .failed => false

/-- The value of bit-slot `k` in a buffer (R38). -/
def slotValue (m : Memory) (k : Nat) : Bool := (Memory.read m (k / 8)).getLsbD (7 - k % 8)

/-- The registers are as R32 says they are in every state that reset reaches, and the pin as R128 says, with the
frame buffer in canonical form. -/
structure Inv (s : State) : Prop where
  /-- `i <= 39`. -/
  index_le : s.i.toNat ≤ 39
  /-- The pull-up is on exactly in the four polling states. -/
  pullUp_iff : s.pinPu = polling s.st
  /-- The pin is an input in the listening states. -/
  dir_listening : listening s.st = true → s.pinDir = .input
  /-- The line is driven low in START_LOW. -/
  startLow_drives : s.st = .startLow → s.pinDir = .output ∧ s.pinOut = .low
  /-- The line is driven high in START_REL. -/
  startRel_drives : s.st = .startRel → s.pinDir = .output
  /-- The latch holds 1 but for the start pulse. -/
  latch_high : s.st ≠ .startLow → s.pinOut = .high
  /-- `hum` holds a value exactly when `rvalid = 1`. -/
  hum_iff : s.hum.isSome = s.rvalid
  /-- `temp` holds a value exactly when `rvalid = 1`. -/
  temp_iff : s.temp.isSome = s.rvalid
  /-- A READ runs only after an INIT. -/
  busy_inited : s.busy = true → s.inited = true
  /-- IDLE and DONE report success. -/
  rest_ok : s.st = .idle ∨ s.st = .done → s.code = .ok
  /-- FAILED reports an error. -/
  failed_error : s.st = .failed → s.code ≠ .ok
  /-- The frame buffer is in canonical form. -/
  fb_wf : Memory.wf s.fb = true
  /-- The wait before the retry is the second attempt's. -/
  retry_att : s.st = .retryWait → s.att = 1#1
  /-- In CHECK and in DONE the last slot was 39. -/
  frame_full : s.st = .check ∨ s.st = .done → s.i = 39#6
  /-- In DONE the results are those of the buffer, whose checksum holds. -/
  done_result : s.st = .done → s.hum = some (s.byteAt 0) ∧ s.temp = some (s.byteAt 2) ∧
    accept (s.byteAt 0) (s.byteAt 1) (s.byteAt 2) (s.byteAt 3) (s.byteAt 4) = true
  /-- In the bit loop the slots not yet received are 0. -/
  slots_ahead_zero : s.st = .bitLow ∨ s.st = .measHigh →
    ∀ k : Nat, s.i.toNat ≤ k → k < 40 → slotValue s.fb k = false

/-! ## The history read back (R31, R42, R43, R146) -/

/-- What a history says of the pin: the registers its operations leave, and whether every read it holds was made
while the pin was an input with the pull-up on. -/
structure PinTrace where
  dir : Dir
  out : Level
  pu : Bool
  readsListening : Bool
  deriving DecidableEq, Repr

/-- One operation of a history. -/
def PinTrace.apply (p : PinTrace) (e : PinEvent) : PinTrace :=
  match e.op with
  | .setDir d => { p with dir := d }
  | .setLevel l => { p with out := l }
  | .pullUp b => { p with pu := b }
  | .readLine _ => { p with readsListening := p.readsListening && p.pu && decide (p.dir = .input) }

/-- A history read back from the pin as reset leaves it (R34). -/
def replay (h : List PinEvent) : PinTrace :=
  h.foldl PinTrace.apply { dir := .input, out := .high, pu := false, readsListening := true }

/-- How often a history switches the pull-up to `b`. -/
def pullUps (b : Bool) (h : List PinEvent) : Nat := h.countP fun e => decide (e.op = .pullUp b)

/-- The history agrees with the pin registers, no read was made otherwise than listening, and every `PullUp(1)`
but one still in force has its one `PullUp(0)` (R103, R146). -/
structure HistoryInv (s : State) : Prop where
  dir_eq : (replay s.hist).dir = s.pinDir
  out_eq : (replay s.hist).out = s.pinOut
  pu_eq : (replay s.hist).pu = s.pinPu
  reads : (replay s.hist).readsListening = true
  balance : pullUps true s.hist = pullUps false s.hist + (if s.pinPu then 1 else 0)

/-! ## The graph of R126 -/

/-- The edges of R126, a wait that is not over being an edge from a state to itself; reset apart. -/
def edge : St → St → Bool
  | .idle, t => t == .idle || t == .failed || t == .startLow
  | .done, t => t == .done || t == .idle || t == .failed || t == .startLow
  | .failed, t => t == .failed || t == .idle || t == .startLow
  | .startLow, t => t == .startLow || t == .startRel
  | .startRel, t => t == .startRel || t == .ackLow
  | .ackLow, t => t == .ackLow || t == .ackHigh || t == .retryWait || t == .failed
  | .ackHigh, t => t == .ackHigh || t == .bitLow || t == .retryWait || t == .failed
  | .retryWait, t => t == .retryWait || t == .startLow
  | .bitLow, t => t == .bitLow || t == .measHigh || t == .failed
  | .measHigh, t => t == .measHigh || t == .bitLow || t == .check || t == .failed
  | .check, t => t == .done || t == .failed

/-! ## How far a READ has to go (R133) -/

/-- The timed states and CHECK a READ may still enter after the one it is in, and that one (R133): at most two
start signals and acknowledgments, one retry wait, 40 bit-slots and one check. -/
def statesLeft (s : State) : Nat :=
  match s.st with
  | .idle => 0
  | .done => 0
  | .failed => 0
  | .check => 1
  | .measHigh => 2 * (39 - s.i.toNat) + 2
  | .bitLow => 2 * (39 - s.i.toNat) + 3
  | .ackHigh => if s.att = 0#1 then 87 else 82
  | .ackLow => if s.att = 0#1 then 88 else 83
  | .startRel => if s.att = 0#1 then 89 else 84
  | .startLow => if s.att = 0#1 then 90 else 85
  | .retryWait => 86

/-- The longest a state waits before a step of it that is not a late rise poll must leave it, in microseconds
(R82). -/
def waitLimit : St → Nat
  | .idle => 0
  | .startLow => Config.tStart
  | .startRel => Config.tRelease
  | .ackLow => Config.tAckLow
  | .ackHigh => Config.tAckHigh
  | .retryWait => Config.tRetry
  | .bitLow => Config.tBitLow
  | .measHigh => Config.tMeas
  | .check => 0
  | .done => 0
  | .failed => 0

/-! ## The progress of time (R83, R172) -/

/-- A run given its inputs from outside: step `n` is made in `r n` with the inputs `e n`. -/
def RunsUnder (e : Nat → Input) (r : Nat → State) : Prop :=
  ∀ n, step { r n with inp := e n } = .next (r (n + 1))

/-- The fairness premise of R83 and R172: `now` shows an unbounded clock, modulo `2^64` (R77), that never decreases
and passes every value. The clock passes no `2^63` microseconds at once, which is all that is used of its not
wrapping (D26; log 16). -/
structure TimeProgresses (e : Nat → Input) (clock : Nat → Nat) : Prop where
  shown : ∀ n, (e n).now = BitVec.ofNat 64 (clock n)
  monotone : ∀ n, clock n ≤ clock (n + 1)
  progress : ∀ limit, ∃ n, limit < clock n
  spacing : ∀ n, clock (n + 1) < clock n + 2 ^ 63

/-- Whether a step of a timed state does not end its wait by the level it reads: a delay reads none, and
MEAS_HIGH waits for a 0 after a 1 (R78 to R80, R84). -/
def pollStays : St → Bool → Level → Bool
  | .idle, _, _ => false
  | .startLow, _, _ => true
  | .startRel, _, _ => true
  | .ackLow, _, l => l == .high
  | .ackHigh, _, l => l == .low
  | .retryWait, _, _ => true
  | .bitLow, _, l => l == .high
  | .measHigh, hi, l => !(hi && l == .low)
  | .check, _, _ => false
  | .done, _, _ => false
  | .failed, _, _ => false

/-! ## What a READ's outcome may depend on (R33, R132) -/

/-- Two states in the same place of a READ agree on every hidden register that means something there (R33). -/
structure SameRead (s s' : State) : Prop where
  st_eq : s.st = s'.st
  t0_eq : s.busy = true → s.st ≠ .check → s.t0 = s'.t0
  att_eq : s.st = .startLow ∨ s.st = .startRel ∨ s.st = .ackLow ∨ s.st = .ackHigh ∨ s.st = .retryWait → s.att = s'.att
  index_eq : s.st = .bitLow ∨ s.st = .measHigh → s.i = s'.i
  fb_eq : s.st = .bitLow ∨ s.st = .measHigh ∨ s.st = .check → s.fb = s'.fb
  hi_eq : s.st = .measHigh → s.hi = s'.hi
  tr_eq : s.st = .measHigh → s.hi = true → s.tr = s'.tr

/-! ## The bit-slots of a frame as the block samples them (R98, R99, R106) -/

/-- The three polls that decide a bit-slot: the 0 that begins it, its rise poll and its fall poll. -/
structure SlotSample where
  low : Time
  rise : Time
  fall : Time
  deriving DecidableEq, Repr

/-- The inputs of one poll: a level at a time, nothing from the host. -/
def pollInput (now : Time) (lvl : Level) : Input :=
  { rst := false, cmd := none, now := now, lvl := lvl, host := none }

/-- The inputs of a bit-slot's three polls. -/
def SlotSample.inputs (x : SlotSample) : List Input :=
  [pollInput x.low .low, pollInput x.rise .high, pollInput x.fall .low]

/-- The bit a sampled slot stands for (R100). -/
def SlotSample.value (x : SlotSample) : Bool := decide (Config.thBit < (x.fall - x.rise).toNat)

/-- The duration a step's fall poll measures, if the step makes one (R99). -/
def fallDuration (s : State) : List Time :=
  if s.st = .measHigh ∧ s.hi = true ∧ s.inp.lvl = .low then [s.inp.now - s.tr] else []

/-- The bit loop has measured the durations `ds`, first slot first: the slots received hold CLASSIFY of them, the
slots to come are 0, and CHECK comes after forty (R100 to R102, R106). -/
structure SlotsReceived (ds : List Time) (s : State) : Prop where
  count : s.st = .bitLow ∨ s.st = .measHigh → ds.length = s.i.toNat
  full : s.st = .check → ds.length = Config.nBits
  value : ∀ (k : Nat) (d : Time), ds[k]? = some d → slotValue s.fb k = decide (Config.thBit < d.toNat)
  ahead : ∀ k : Nat, ds.length ≤ k → k < Config.nBits → slotValue s.fb k = false

/-- `n` steps lead from `s` to `t`, none of them stopping. -/
def stepsTo : Nat → State → State → Prop
  | 0, s, t => s = t
  | n + 1, s, t => ∃ u, step s = .next u ∧ stepsTo n u t

/-- Whether the checksum of a frame, given as one 40-bit number, holds (R57, R109). -/
def frameAccepted (w : BitVec 40) : Bool :=
  accept (w.extractLsb' 32 8) (w.extractLsb' 24 8) (w.extractLsb' 16 8) (w.extractLsb' 8 8) (w.extractLsb' 0 8)

/-! ## What the host can see (R35) -/

/-- The host can see the same of both states (R35): STATUS's, RESULT's and PINCTL's registers. -/
structure SameToHost (s s' : State) : Prop where
  st_eq : s.st = s'.st
  code_eq : s.code = s'.code
  hum_eq : s.hum = s'.hum
  temp_eq : s.temp = s'.temp
  rvalid_eq : s.rvalid = s'.rvalid
  inited_eq : s.inited = s'.inited
  dir_eq : s.pinDir = s'.pinDir
  out_eq : s.pinOut = s'.pinOut
  pu_eq : s.pinPu = s'.pinPu

end Sys2Proof.Machine
end

