-- ==== Sys2Proof/Certificates/Slice0/Obligations.lean ====
section
/-! DEFINITION. The statements made of the model, in the order of OBLIGATIONS.json. Times are written out as
`(s.inp.now - s.t0).toNat`, which is `elapsed(t0)` of R77, and the constants of R8 as numbers. -/

open Sys2Proof Sys2Proof.Machine

/-! ## Encodings -/

/-- For every well-formed instruction, decoding what it is encoded as gives it back, every operand at every value
its encoding admits (30_encoding.md). -/
def Obligations.DecodeOfEncodeGivesTheInstruction : Prop :=
  ∀ i : Instr, i.wellFormed = true → decode (encode i).1 (encode i).2 = .ok i

/-- The other direction: every word a channel accepts is the word of the one well-formed instruction it decodes
to, so no bit of it is dropped. -/
def Obligations.EncodeOfDecodeGivesTheWord : Prop :=
  ∀ (ch : Channel) (w : Nat) (i : Instr), decode ch w = .ok i → encode i = (ch, w) ∧ i.wellFormed = true

/-- Which words each channel accepts (R60, R64 to R66): every 3-bit command, state codes 0 to 10, status codes 0
to 8, every 40-bit frame, and the host words as laid out. The refusal of the words that no block presents is the
model's reading (log 5, log 23). -/
def Obligations.EachChannelAcceptsItsWordsAndNoOther : Prop :=
  (∀ w, (∃ i, decode .cmd w = .ok i) ↔ w < 8) ∧
  (∀ w, (∃ i, decode .st w = .ok i) ↔ w ≤ 10) ∧
  (∀ w, (∃ i, decode .code w = .ok i) ↔ w ≤ 8) ∧
  (∀ w, (∃ i, decode .frame w = .ok i) ↔ w < 2 ^ 40) ∧
  (∀ w, (∃ i, decode .result w = .ok i) ↔ w < 2 ^ 16) ∧
  (∀ w, (∃ i, decode .pinctl w = .ok i) ↔ w < 8) ∧
  (∀ w, (∃ i, decode .status w = .ok i) ↔ w < 2 ^ 12 ∧ w / 128 % 2 = 0 ∧ w / 256 ≤ 10 ∧ w % 16 ≤ 6)

/-- Words written out bit by bit from the tables of R57 and R60 to R65. -/
def Obligations.WordsSpelledFromTheTablesDecode : Prop :=
  decode .cmd 0b101 = .ok .init ∧ decode .cmd 0b110 = .ok .read ∧ decode .cmd 0b010 = .ok .readNull ∧
  decode .cmd 0b111 = .ok (.reserved true) ∧
  decode .st 0b0111 = .ok .stMeasHigh ∧ decode .st 0b1011 = .error .unassignedStateCode ∧
  decode .code 0b0110 = .ok .codeChecksumMismatch ∧
  decode .frame 0x320018004A = .ok (.frame 0x32#8 0x00#8 0x18#8 0x00#8 0x4A#8) ∧
  decode .status 0x0960 = .ok (.status 9#4 true true false 0#4) ∧
  decode .result 0x1832 = .ok (.result 24#8 50#8) ∧
  decode .pinctl 0x0006 = .ok (.pinctl false true true false)

/-! ## The step -/

/-- A step with no reset and no host access runs the operation its state code decodes to (R16, R124), and then
the next step's inputs are presented. -/
def Obligations.StepRunsTheOperationItsStateCodes : Prop :=
  ∀ (s : State) (i : Instr), s.inp.rst = false → s.inp.host = none →
    decode .st (encodeSt s.st).toNat = .ok i → step s = thenPresent (exec i s)

/-- In a rest state a step runs the command presented to it (R117, R124). -/
def Obligations.StepAtRestRunsThePresentedCommand : Prop :=
  ∀ (s : State) (w : CmdWord) (i : Instr), s.inp.rst = false → s.inp.host = none → s.busy = false →
    s.inp.cmd = some w → decode .cmd w.toNat = .ok i → step s = thenPresent (exec i s)

/-- In CHECK a step runs the frame its buffer spells (R57, R109); that a frame is an operation by itself is the
model's choice (log 8). -/
def Obligations.StepInCheckRunsTheFrameInTheBuffer : Prop :=
  ∀ (s : State) (i : Instr), s.inp.rst = false → s.inp.host = none → s.st = .check → Memory.wf s.fb = true →
    decode .frame (packFrame (s.byteAt 0) (s.byteAt 1) (s.byteAt 2) (s.byteAt 3) (s.byteAt 4)).toNat = .ok i →
    step s = thenPresent (exec i s)

/-- A host read of a port in a step runs the host word's instruction first and then the block's own step, so it
sees the values before the step (R45, R176). -/
def Obligations.StepServesTheHostReadBeforeTheBlock : Prop :=
  ∀ (s : State) (i : Instr),
    (s.inp.host = some (.readPort 1) → decode .status s.statusWord.toNat = .ok i →
      step s = thenPresent (andThen (exec i s) blockStep)) ∧
    (s.inp.host = some (.readPort 2) → decode .result s.resultWord.toNat = .ok i →
      step s = thenPresent (andThen (exec i s) blockStep)) ∧
    (s.inp.host = some (.readPort 3) → decode .pinctl s.pinctlWord.toNat = .ok i →
      step s = thenPresent (andThen (exec i s) blockStep))

/-- A host read leaves the block's step as it would have been (R44): the step with the read is the step without
it, but for the word the host holds. For RESULT this is said once a reading was taken; before that the word is
free (log 4). -/
def Obligations.HostReadDoesNotDisturbTheBlock : Prop :=
  ∀ s : State,
    (s.inp.host = some (.readPort 1) →
      step s = step { s with inp := { s.inp with host := none }, hostWord := some s.statusWord }) ∧
    (s.inp.host = some (.readPort 2) → s.rvalid = true →
      step s = step { s with inp := { s.inp with host := none }, hostWord := some s.resultWord }) ∧
    (s.inp.host = some (.readPort 3) →
      step s = step { s with inp := { s.inp with host := none }, hostWord := some s.pinctlWord })

/-- Host reads of CMD or of a port above 3 and host writes of any other port are refused (R45, U8). That such an
access is refused in a step with `rst = 1` too is the model's choice (log 13). -/
def Obligations.HostAccessOutsideTheInterfaceIsRefused : Prop :=
  ∀ (s : State) (p k : Nat),
    (s.inp.host = some (.readPort p) → p = 0 ∨ 3 < p → step s = .refused .outsidePortInterface) ∧
    (s.inp.host = some (.writeAbove k) → step s = .refused .outsidePortInterface)

/-- The reset action (R161): in any state and whatever the other inputs, a host read of a port included. (A host
access outside the interface is refused before the reset is looked at, log 13.) -/
def Obligations.ResetGivesEveryRegisterItsResetValue : Prop :=
  ∀ s : State, s.inp.rst = true →
    (s.inp.host = none ∨ ∃ p, s.inp.host = some (.readPort p) ∧ 1 ≤ p ∧ p ≤ 3) → ∃ t, step s = .next t ∧
    t.st = .idle ∧ t.att = 0#1 ∧ t.i = 0#6 ∧ t.hi = false ∧ t.t0 = 0#64 ∧ t.tr = 0#64 ∧ t.dur = 0#64 ∧
    (∀ k, t.byteAt k = 0#8) ∧ t.code = .ok ∧ t.rvalid = false ∧ t.inited = false ∧ t.pinDir = .input ∧
    t.pinOut = .high ∧ t.pinPu = false ∧ t.hum = none ∧ t.temp = none ∧ t.hist = []

/-- The values of R34 in the model's reset state; `pin_pd` is hardwired 0 (R30). -/
def Obligations.ResetStateHoldsTheTablesValues : Prop :=
  State.reset.st = .idle ∧ State.reset.att = 0#1 ∧ State.reset.i = 0#6 ∧ State.reset.hi = false ∧
  State.reset.t0 = 0#64 ∧ State.reset.tr = 0#64 ∧ State.reset.dur = 0#64 ∧ (∀ k, State.reset.byteAt k = 0#8) ∧
  State.reset.code = .ok ∧ State.reset.hum = none ∧ State.reset.temp = none ∧ State.reset.rvalid = false ∧
  State.reset.inited = false ∧ State.reset.pinDir = .input ∧ State.reset.pinOut = .high ∧
  State.reset.pinPu = false ∧ State.reset.pinPd = false ∧ State.reset.hist = [] ∧ State.reset.busy = false

/-! ## Commands -/

/-- NOP and the reserved command change nothing, in any state, and in a rest state neither does an absent command
(R118). -/
def Obligations.NopAndReservedChangeNothing : Prop :=
  ∀ (s : State) (ref : Bool), exec (.nop ref) s = .next s ∧ exec (.reserved ref) s = .next s ∧
    (s.busy = false → s.inp.cmd = none → exec (stInstr s.st) s = .next s)

/-- INIT with a valid reference makes the pin an idle-high output and reports success; with a null one it is the
guard. All else is unchanged (R120). -/
def Obligations.InitMakesThePinAnIdleHighOutput : Prop :=
  ∀ s : State, s.busy = false →
    exec .init s = .next { s with
      pinDir := .output, pinOut := .high, inited := true, code := .ok, st := .idle,
      hist := s.hist ++ [⟨.setDir .output, s.inp.now⟩, ⟨.setLevel .high, s.inp.now⟩] } ∧
    exec .initNull s = .next { s with code := .error .nullReference, st := .failed }

/-- The null-reference guard: `code <- 1 ; st <- FAILED` and nothing else, no pin operation in particular, for
INIT and READ alike, and READ's guard comes before the lifecycle is looked at (R119). -/
def Obligations.NullReferenceGuardWritesCodeAndStateOnly : Prop :=
  ∀ s : State, s.busy = false →
    exec .initNull s = .next { s with code := .error .nullReference, st := .failed } ∧
    exec .readNull s = .next { s with code := .error .nullReference, st := .failed }

/-- READ accepted after an INIT starts the first attempt: `att <- 0`, then `enter(START_LOW)`, and `busy` rises;
with a null reference it is the guard, and before an INIT it is refused (R121). -/
def Obligations.ReadStartsTheFirstAttempt : Prop :=
  ∀ s : State, s.busy = false →
    (s.inited = true → exec .read s = .next { s with
      att := 0#1, pinDir := .output, pinOut := .low, t0 := s.inp.now, st := .startLow,
      hist := s.hist ++ [⟨.setDir .output, s.inp.now⟩, ⟨.setLevel .low, s.inp.now⟩] }) ∧
    (∀ t, exec .read s = .next t → t.busy = true) ∧
    (s.inited = false → exec .read s = .refused .readBeforeInit) ∧
    exec .readNull s = .next { s with code := .error .nullReference, st := .failed }

/-- READ before INIT is refused (R122, U3). -/
def Obligations.ReadBeforeInitIsRefused : Prop :=
  ∀ s : State, s.busy = false → s.inited = false → exec .read s = .refused .readBeforeInit

/-- While busy a command has no effect of any kind: every command's own effect is nothing, and the step is the
step with no command (R123). -/
def Obligations.CommandWhileBusyHasNoEffect : Prop :=
  ∀ (s : State) (ref : Bool), s.busy = true →
    exec (.nop ref) s = .next s ∧ exec .init s = .next s ∧ exec .initNull s = .next s ∧
    exec .read s = .next s ∧ exec .readNull s = .next s ∧ exec (.reserved ref) s = .next s ∧
    step s = step { s with inp := { s.inp with cmd := none } }

/-- The three rest states behave alike towards a command: each does what the presented command does, and nothing
when none is presented (R117, R127 to R129). -/
def Obligations.RestStatesAcceptCommandsAlike : Prop :=
  ∀ (s : State) (w : CmdWord),
    (s.inp.cmd = none → exec .stIdle s = .next s ∧ exec .stDone s = .next s ∧ exec .stFailed s = .next s) ∧
    (s.inp.cmd = some w → exec .stIdle s = exec (decodeCmd w) s ∧ exec .stDone s = exec (decodeCmd w) s ∧
      exec .stFailed s = exec (decodeCmd w) s)

/-- A second INIT, whatever the inputs of its step, leaves the same state as one, the pin an output at 1, `inited`
1, `code` 0 and `st` IDLE; only the history grows, by the same two operations at the second INIT's time (R131). -/
def Obligations.InitIsIdempotent : Prop :=
  ∀ (s t : State) (second : Input), s.busy = false → exec .init s = .next t →
    t.pinDir = .output ∧ t.pinOut = .high ∧ t.inited = true ∧ t.code = .ok ∧ t.st = .idle ∧
    ∃ u, exec .init { t with inp := second } = .next u ∧ { u with hist := t.hist, inp := t.inp } = t ∧
      u.hist = t.hist ++ [⟨.setDir .output, second.now⟩, ⟨.setLevel .high, second.now⟩]

/-! ## The handshake -/

/-- START_LOW: once 20000 µs have gone by it enters START_REL (`SetLevel(1)`), before that nothing changes (R87). -/
def Obligations.StartLowHoldsTheStartPulse : Prop :=
  ∀ s : State,
    (20000 ≤ (s.inp.now - s.t0).toNat → exec .stStartLow s = .next { s with
      pinOut := .high, t0 := s.inp.now, st := .startRel, hist := s.hist ++ [⟨.setLevel .high, s.inp.now⟩] }) ∧
    ((s.inp.now - s.t0).toNat < 20000 → exec .stStartLow s = .next s)

/-- START_REL: once 30 µs have gone by it runs LISTEN, the pin becoming an input with its pull-up on, and enters
ACK_LOW; before that nothing changes (R88, R89). -/
def Obligations.StartRelEndsInListening : Prop :=
  ∀ s : State,
    (30 ≤ (s.inp.now - s.t0).toNat → exec .stStartRel s = .next { s with
      pinDir := .input, pinPu := true, t0 := s.inp.now, st := .ackLow,
      hist := s.hist ++ [⟨.setDir .input, s.inp.now⟩, ⟨.pullUp true, s.inp.now⟩] }) ∧
    ((s.inp.now - s.t0).toNat < 30 → exec .stStartRel s = .next s)

/-- ACK_LOW: a 0 is the acknowledgment's low phase however late; a 1 after more than 200 µs ends the attempt, by
a retry after the first and by HandshakeTimeoutLow after the second; else only the read is recorded (R90, R92). -/
def Obligations.AckLowPollsForTheLowPhase : Prop :=
  ∀ s : State,
    (s.inp.lvl = .low → exec .stAckLow s = .next { s with
      t0 := s.inp.now, st := .ackHigh, hist := s.hist ++ [⟨.readLine .low, s.inp.now⟩] }) ∧
    (s.inp.lvl = .high → 200 < (s.inp.now - s.t0).toNat → s.att = 0#1 → exec .stAckLow s = .next { s with
      pinPu := false, att := 1#1, t0 := s.inp.now, st := .retryWait,
      hist := s.hist ++ [⟨.readLine .high, s.inp.now⟩, ⟨.pullUp false, s.inp.now⟩] }) ∧
    (s.inp.lvl = .high → 200 < (s.inp.now - s.t0).toNat → s.att = 1#1 → exec .stAckLow s = .next { s with
      pinPu := false, code := .error .handshakeTimeoutLow, st := .failed,
      hist := s.hist ++ [⟨.readLine .high, s.inp.now⟩, ⟨.pullUp false, s.inp.now⟩] }) ∧
    (s.inp.lvl = .high → (s.inp.now - s.t0).toNat ≤ 200 → exec .stAckLow s = .next { s with
      hist := s.hist ++ [⟨.readLine .high, s.inp.now⟩] })

/-- ACK_HIGH: a 1 ends the handshake with HS_OK, all five bytes and the index at 0; a 0 after more than 200 µs
ends the attempt, by a retry after the first and by HandshakeTimeoutHigh after the second; else only the read is
recorded (R91, R92, R96). -/
def Obligations.AckHighPollsForTheHighPhase : Prop :=
  ∀ s : State,
    (s.inp.lvl = .high → (∀ k, Memory.read [] k = 0#8) ∧ exec .stAckHigh s = .next { s with
      fb := [], i := 0#6, t0 := s.inp.now, st := .bitLow, hist := s.hist ++ [⟨.readLine .high, s.inp.now⟩] }) ∧
    (s.inp.lvl = .low → 200 < (s.inp.now - s.t0).toNat → s.att = 0#1 → exec .stAckHigh s = .next { s with
      pinPu := false, att := 1#1, t0 := s.inp.now, st := .retryWait,
      hist := s.hist ++ [⟨.readLine .low, s.inp.now⟩, ⟨.pullUp false, s.inp.now⟩] }) ∧
    (s.inp.lvl = .low → 200 < (s.inp.now - s.t0).toNat → s.att = 1#1 → exec .stAckHigh s = .next { s with
      pinPu := false, code := .error .handshakeTimeoutHigh, st := .failed,
      hist := s.hist ++ [⟨.readLine .low, s.inp.now⟩, ⟨.pullUp false, s.inp.now⟩] }) ∧
    (s.inp.lvl = .low → (s.inp.now - s.t0).toNat ≤ 200 → exec .stAckHigh s = .next { s with
      hist := s.hist ++ [⟨.readLine .low, s.inp.now⟩] })

/-- RETRY_WAIT: once 10000 µs have gone by it enters START_LOW again, before that nothing changes (R86, R93). -/
def Obligations.RetryWaitEndsInTheNextAttempt : Prop :=
  ∀ s : State,
    (10000 ≤ (s.inp.now - s.t0).toNat → exec .stRetryWait s = .next { s with
      pinDir := .output, pinOut := .low, t0 := s.inp.now, st := .startLow,
      hist := s.hist ++ [⟨.setDir .output, s.inp.now⟩, ⟨.setLevel .low, s.inp.now⟩] }) ∧
    ((s.inp.now - s.t0).toNat < 10000 → exec .stRetryWait s = .next s)

/-! ## The frame decoder -/

/-- BIT_LOW: a 0 begins the bit-slot; a 1 after more than 100 µs is BitStartTimeout, after CLEANUP; else only the
read is recorded (R98). -/
def Obligations.BitLowPollsForTheSlotsBeginning : Prop :=
  ∀ s : State,
    (s.inp.lvl = .low → exec .stBitLow s = .next { s with
      hi := false, t0 := s.inp.now, st := .measHigh, hist := s.hist ++ [⟨.readLine .low, s.inp.now⟩] }) ∧
    (s.inp.lvl = .high → 100 < (s.inp.now - s.t0).toNat → exec .stBitLow s = .next { s with
      pinPu := false, code := .error .bitStartTimeout, st := .failed,
      hist := s.hist ++ [⟨.readLine .high, s.inp.now⟩, ⟨.pullUp false, s.inp.now⟩] }) ∧
    (s.inp.lvl = .high → (s.inp.now - s.t0).toNat ≤ 100 → exec .stBitLow s = .next { s with
      hist := s.hist ++ [⟨.readLine .high, s.inp.now⟩] })

/-- MEAS_HIGH but for the fall poll: the first 1 is the rise poll, which starts the measurement however late; a
poll that is neither rise nor fall after more than 200 µs since entry is HighMeasureTimeout, after CLEANUP; else
only the read is recorded (R99). -/
def Obligations.MeasHighFindsTheRiseOrTimesOut : Prop :=
  ∀ s : State,
    (s.hi = false → s.inp.lvl = .high → exec .stMeasHigh s = .next { s with
      hi := true, tr := s.inp.now, hist := s.hist ++ [⟨.readLine .high, s.inp.now⟩] }) ∧
    ((s.hi = false ∧ s.inp.lvl = .low ∨ s.hi = true ∧ s.inp.lvl = .high) →
      200 < (s.inp.now - s.t0).toNat → exec .stMeasHigh s = .next { s with
        pinPu := false, code := .error .highMeasureTimeout, st := .failed,
        hist := s.hist ++ [⟨.readLine s.inp.lvl, s.inp.now⟩, ⟨.pullUp false, s.inp.now⟩] }) ∧
    ((s.hi = false ∧ s.inp.lvl = .low ∨ s.hi = true ∧ s.inp.lvl = .high) →
      (s.inp.now - s.t0).toNat ≤ 200 → exec .stMeasHigh s = .next { s with
        hist := s.hist ++ [⟨.readLine s.inp.lvl, s.inp.now⟩] })

/-- The fall poll of MEAS_HIGH: `dur` is the time since the rise poll; the bit is 1 exactly when it exceeds 50 µs
and is set at `FB[i div 8][7 - i mod 8]`; then the next slot, or after slot 39 CLEANUP and CHECK. Everything else
is unchanged (R99 to R102). -/
def Obligations.FallPollStoresTheBitAndMovesOn : Prop :=
  ∀ s : State, s.hi = true → s.inp.lvl = .low → s.i.toNat ≤ 39 → Memory.wf s.fb = true →
    ∃ m : Memory,
      (s.i.toNat < 39 → exec .stMeasHigh s = .next { s with
        dur := s.inp.now - s.tr, fb := m, i := s.i + 1#6, t0 := s.inp.now, st := .bitLow,
        hist := s.hist ++ [⟨.readLine .low, s.inp.now⟩] }) ∧
      (s.i.toNat = 39 → exec .stMeasHigh s = .next { s with
        dur := s.inp.now - s.tr, fb := m, pinPu := false, st := .check,
        hist := s.hist ++ [⟨.readLine .low, s.inp.now⟩, ⟨.pullUp false, s.inp.now⟩] }) ∧
      ((s.inp.now - s.tr).toNat ≤ 50 → m = s.fb) ∧
      (50 < (s.inp.now - s.tr).toNat →
        (∀ a, a ≠ s.i.toNat / 8 → Memory.read m a = s.byteAt a) ∧
        Memory.read m (s.i.toNat / 8) = s.byteAt (s.i.toNat / 8) ||| 1#8 <<< (7 - s.i.toNat % 8))

/-- A fall poll whose bit is 1 at an index of 40 or more, which no reachable state holds, stops with a fault: the
byte does not exist. The stop is the model's choice (log 14). -/
def Obligations.StoreBeyondTheFrameBufferFaults : Prop :=
  ∀ s : State, s.hi = true → s.inp.lvl = .low → 40 ≤ s.i.toNat → 50 < (s.inp.now - s.tr).toNat →
    exec .stMeasHigh s = .fault .frameBufferAddress

/-- CLASSIFY: a duration above 50 µs is bit 1, one of 50 µs or less bit 0, whatever its length; the boundary at
exactly 50 and 51 µs (R100). -/
def Obligations.ClassifyComparesWithTheThreshold : Prop :=
  (∀ d : Time, (50 < d.toNat → classify d = true) ∧ (d.toNat ≤ 50 → classify d = false)) ∧
  classify 50#64 = false ∧ classify 51#64 = true

/-- STORE_BIT sets the bit of slot `i`, most significant first, and no other slot; a 0 writes nothing (R101). -/
def Obligations.StoreBitSetsItsSlotAndNoOther : Prop :=
  ∀ s : State, s.i.toNat ≤ 39 → Memory.wf s.fb = true →
    storeBit false s = .next s ∧
    ∃ m : Memory, storeBit true s = .next { s with fb := m } ∧ Memory.wf m = true ∧
      (∀ k, k < 40 → slotValue m k = (decide (k = s.i.toNat) || slotValue s.fb k)) ∧
      Memory.read m (s.i.toNat / 8) = s.byteAt (s.i.toNat / 8) ||| 1#8 <<< (7 - s.i.toNat % 8)

/-- One bit-slot as the block samples it: a 0, a 1, a 0. Three steps after BIT_LOW at slot `i` the slot's bit is 1
exactly when the high phase was measured as more than 50 µs, whatever the times, the other slots are as they
were, and the block is in BIT_LOW at the next slot or, after slot 39, in CHECK (R98 to R102, R105). -/
def Obligations.ThreePollsReceiveABitSlot : Prop :=
  ∀ (s : State) (x : SlotSample) (rest : List Input), s.st = .bitLow → s.i.toNat ≤ 39 → Memory.wf s.fb = true →
    slotValue s.fb s.i.toNat = false → s.inp :: s.env = x.inputs ++ rest →
    ∃ t, stepsTo 3 s t ∧ Memory.wf t.fb = true ∧ (∀ e more, rest = e :: more → t.inp = e ∧ t.env = more) ∧
      (∀ k, k < 40 → slotValue t.fb k = if k = s.i.toNat then x.value else slotValue s.fb k) ∧
      (s.i.toNat < 39 → t.st = .bitLow ∧ t.i.toNat = s.i.toNat + 1 ∧ t.pinPu = s.pinPu) ∧
      (s.i.toNat = 39 → t.st = .check ∧ t.i = s.i ∧ t.pinPu = false) ∧
      t.dur = x.fall - x.rise ∧ t.code = s.code ∧ t.hum = s.hum ∧ t.temp = s.temp ∧ t.rvalid = s.rvalid

/-- The packing law (R106). The bit loop begins with no slot received; every step of it, a poll that stays
included, keeps slot `k` at CLASSIFY of the `k`-th measured duration and the slots to come at 0, a fall poll adding
its own duration; so in CHECK the forty slots hold the forty durations' bits. And forty bit-slots each polled three
times (0, 1, 0), at any times, do bring the block to CHECK. -/
def Obligations.FortyBitSlotsMakeTheFrame : Prop :=
  (∀ s t : State, s.st = .ackHigh → s.inp.rst = false → step s = .next t → t.st = .bitLow → SlotsReceived [] t) ∧
  (∀ (s t : State) (ds : List Time), s.st = .bitLow ∨ s.st = .measHigh → s.i.toNat ≤ 39 → Memory.wf s.fb = true →
    s.inp.rst = false → SlotsReceived ds s → step s = .next t → SlotsReceived (ds ++ fallDuration s) t) ∧
  (∀ (s : State) (xs : List SlotSample) (rest : List Input), s.st = .bitLow → s.i = 0#6 → s.fb = [] →
    xs.length = 40 → s.inp :: s.env = xs.flatMap SlotSample.inputs ++ rest →
    ∃ t, stepsTo 120 s t ∧ t.st = .check ∧ t.pinPu = false ∧
      ∀ (k : Nat) (x : SlotSample), xs[k]? = some x → slotValue t.fb k = x.value)

/-- The accuracy of the measurement (R108): if the rise and fall polls come less than `g` µs after the edges at
`a` and `b`, the measured duration is within `g` of the true one; so a high phase of at most 28 µs is read as 0
when `g <= 22`, and one of 70 µs as 1 when `g <= 20`. -/
def Obligations.MeasuredWidthIsWithinTheSamplingGap : Prop :=
  ∀ (s : State) (a b g : Nat), s.hi = true → s.inp.lvl = .low → s.i.toNat ≤ 39 → Memory.wf s.fb = true →
    a ≤ s.tr.toNat → s.tr.toNat < a + g → b ≤ s.inp.now.toNat → s.inp.now.toNat < b + g →
    s.tr.toNat ≤ s.inp.now.toNat → a ≤ b →
    ∃ t, exec .stMeasHigh s = .next t ∧ b < a + g + t.dur.toNat ∧ a + t.dur.toNat < b + g ∧
      (b - a ≤ 28 → g ≤ 22 → t.fb = s.fb) ∧
      (b - a = 70 → g ≤ 20 → slotValue t.fb s.i.toNat = true)

/-! ## The validator -/

/-- CHECK accepts a frame whose checksum byte is the sum of the other four modulo 256: `hum`, `temp` and `rvalid`
are written together, `code` is 0 and the state DONE; all else is unchanged (R109, R111). -/
def Obligations.CheckAcceptsAFrameWhoseChecksumHolds : Prop :=
  ∀ s : State,
    (s.byteAt 4).toNat =
      ((s.byteAt 0).toNat + (s.byteAt 1).toNat + (s.byteAt 2).toNat + (s.byteAt 3).toNat) % 256 →
    exec .stCheck s = .next { s with
      hum := some (s.byteAt 0), temp := some (s.byteAt 2), rvalid := true, code := .ok, st := .done }

/-- CHECK rejects any other frame with ChecksumMismatch: `code` and `st` are written and nothing else, the
results in particular (R112, R141). -/
def Obligations.CheckRejectsAFrameWhoseChecksumFails : Prop :=
  ∀ s : State,
    (s.byteAt 4).toNat ≠
      ((s.byteAt 0).toNat + (s.byteAt 1).toNat + (s.byteAt 2).toNat + (s.byteAt 3).toNat) % 256 →
    exec .stCheck s = .next { s with code := .error .checksumMismatch, st := .failed }

/-- A frame as an operation: its five bytes stand in the buffer in order of arrival, and it is accepted exactly
when `c = (h + f + t + g) mod 256` (R57, R109). That a frame is an operation by itself is the model's choice
(log 8). -/
def Obligations.FrameIsValidatedByItsChecksum : Prop :=
  ∀ (h f t g c : Byte) (s : State), ∃ m : Memory, Memory.wf m = true ∧
    Memory.read m 0 = h ∧ Memory.read m 1 = f ∧ Memory.read m 2 = t ∧ Memory.read m 3 = g ∧ Memory.read m 4 = c ∧
    (c.toNat = (h.toNat + f.toNat + t.toNat + g.toNat) % 256 → exec (.frame h f t g c) s = .next { s with
      fb := m, hum := some h, temp := some t, rvalid := true, code := .ok, st := .done }) ∧
    (c.toNat ≠ (h.toNat + f.toNat + t.toNat + g.toNat) % 256 → exec (.frame h f t g c) s = .next { s with
      fb := m, code := .error .checksumMismatch, st := .failed })

/-- For any four leading bytes exactly one checksum byte is accepted, and a frame that differs from an accepted
one in exactly one of its 40 bits is always rejected (R115). -/
def Obligations.ChecksumDetectsEveryOneBitError : Prop :=
  (∀ h f t g : Byte, ∃ c, accept h f t g c = true ∧ ∀ c', accept h f t g c' = true → c' = c) ∧
  (∀ (w : BitVec 40) (k : Nat), k < 40 → frameAccepted w = true → frameAccepted (w ^^^ (1#40 <<< k)) = false)

/-! ## Status codes -/

/-- FAIL, as each error kind's status code: `code <- e ; st <- FAILED` and nothing else (R145); and success's:
`code <- 0 ; st <- DONE` (R109). That a status code is an operation by itself is the model's choice (log 7). -/
def Obligations.StatusCodesEndTheCommand : Prop :=
  ∀ s : State,
    exec .codeOk s = .next { s with code := .ok, st := .done } ∧
    exec .codeNullReference s = .next { s with code := .error .nullReference, st := .failed } ∧
    exec .codeHandshakeTimeoutLow s = .next { s with code := .error .handshakeTimeoutLow, st := .failed } ∧
    exec .codeHandshakeTimeoutHigh s = .next { s with code := .error .handshakeTimeoutHigh, st := .failed } ∧
    exec .codeBitStartTimeout s = .next { s with code := .error .bitStartTimeout, st := .failed } ∧
    exec .codeHighMeasureTimeout s = .next { s with code := .error .highMeasureTimeout, st := .failed } ∧
    exec .codeChecksumMismatch s = .next { s with code := .error .checksumMismatch, st := .failed }

/-- The reserved status codes 7 and 8 are refused, each by its name (R142, U2; log 12). -/
def Obligations.ReservedStatusCodesAreRefused : Prop :=
  ∀ s : State, exec .codeReservedTimeoutBitSync s = .refused .reservedTimeoutBitSync ∧
    exec .codeReservedTimeoutHighPulse s = .refused .reservedTimeoutHighPulse

/-! ## Host words -/

/-- A read of STATUS gives CODE, BUSY, INITED, RVALID and ST at their places and 0 at the others, whatever the
operand bits, and changes nothing else (R44, R61); the codes are spelled as the numbers of R65 and R64. -/
def Obligations.StatusReadGivesTheStatusWord : Prop :=
  ∀ (s : State) (a c : BitVec 4) (v n b : Bool), ∃ w : HostWord,
    exec (.status a v n b c) s = .next { s with hostWord := some w } ∧
    (s.code = .ok → w.extractLsb' 0 4 = 0#4) ∧
    (s.code = .error .nullReference → w.extractLsb' 0 4 = 1#4) ∧
    (s.code = .error .handshakeTimeoutLow → w.extractLsb' 0 4 = 2#4) ∧
    (s.code = .error .handshakeTimeoutHigh → w.extractLsb' 0 4 = 3#4) ∧
    (s.code = .error .bitStartTimeout → w.extractLsb' 0 4 = 4#4) ∧
    (s.code = .error .highMeasureTimeout → w.extractLsb' 0 4 = 5#4) ∧
    (s.code = .error .checksumMismatch → w.extractLsb' 0 4 = 6#4) ∧
    w.getLsbD 4 = s.busy ∧ w.getLsbD 5 = s.inited ∧ w.getLsbD 6 = s.rvalid ∧ w.getLsbD 7 = false ∧
    (s.st = .idle → w.extractLsb' 8 4 = 0#4) ∧ (s.st = .startLow → w.extractLsb' 8 4 = 1#4) ∧
    (s.st = .startRel → w.extractLsb' 8 4 = 2#4) ∧ (s.st = .ackLow → w.extractLsb' 8 4 = 3#4) ∧
    (s.st = .ackHigh → w.extractLsb' 8 4 = 4#4) ∧ (s.st = .retryWait → w.extractLsb' 8 4 = 5#4) ∧
    (s.st = .bitLow → w.extractLsb' 8 4 = 6#4) ∧ (s.st = .measHigh → w.extractLsb' 8 4 = 7#4) ∧
    (s.st = .check → w.extractLsb' 8 4 = 8#4) ∧ (s.st = .done → w.extractLsb' 8 4 = 9#4) ∧
    (s.st = .failed → w.extractLsb' 8 4 = 10#4) ∧ w.extractLsb' 12 4 = 0#4

/-- A read of RESULT gives HUM in bits 7:0 and TEMP in bits 15:8 once a reading was taken, and changes nothing
else; before that it still answers, with a word of which nothing is said (R44, R62; the free bytes are the model's
choice, log 4). -/
def Obligations.ResultReadGivesTheResultWord : Prop :=
  ∀ (s : State) (t h th hu : Byte),
    (s.rvalid = true → s.temp = some th → s.hum = some hu → ∃ w : HostWord,
      exec (.result t h) s = .next { s with hostWord := some w } ∧
      w.extractLsb' 0 8 = hu ∧ w.extractLsb' 8 8 = th) ∧
    (s.rvalid = false → ∃ (w : HostWord) (n : Nat),
      exec (.result t h) s = .next { s with hostWord := some w, fresh := n })

/-- A read of PINCTL gives DIR, OUT, PU and PD (always 0) in bits 3:0 and 0 at the others, and changes nothing
else (R44, R63). -/
def Obligations.PinctlReadGivesThePinWord : Prop :=
  ∀ (s : State) (q u o d : Bool), ∃ w : HostWord,
    exec (.pinctl q u o d) s = .next { s with hostWord := some w } ∧
    (w.getLsbD 0 = true ↔ s.pinDir = .output) ∧ (w.getLsbD 1 = true ↔ s.pinOut = .high) ∧
    w.getLsbD 2 = s.pinPu ∧ w.getLsbD 3 = false ∧ w.extractLsb' 4 12 = 0#12

/-- The host sees nothing hidden (R35, R46): two states that agree on the registers R35 lists give it the same
words, whatever `att`, `i`, `hi`, `t0`, `tr`, `dur`, `FB` and the history hold; RESULT once a reading was
taken. -/
def Obligations.HostWordsShowNoHiddenRegister : Prop :=
  ∀ s s' t t' : State, SameToHost s s' → (s.rvalid = true → s.hum.isSome = true ∧ s.temp.isSome = true) →
    ((exec s.statusInstr s = .next t → exec s'.statusInstr s' = .next t' → t.hostWord = t'.hostWord) ∧
     (s.rvalid = true → exec s.resultInstr s = .next t → exec s'.resultInstr s' = .next t' →
       t.hostWord = t'.hostWord) ∧
     (exec s.pinctlInstr s = .next t → exec s'.pinctlInstr s' = .next t' → t.hostWord = t'.hostWord))

/-! ## Frames over the instruction set -/

/-- Every byte of the frame buffer is unchanged by every instruction but ACK_HIGH, MEAS_HIGH and a frame (R36, R37,
R40). -/
def Obligations.OnlyThreeOperationsTouchTheFrameBuffer : Prop :=
  ∀ (i : Instr) (s t : State), exec i s = .next t → i ≠ .stAckHigh → i ≠ .stMeasHigh →
    (∀ h f tt g c, i ≠ .frame h f tt g c) → ∀ a, t.byteAt a = s.byteAt a

/-- MEAS_HIGH writes at most the byte `i div 8` of the buffer, sets bits and clears none (R37, R40, R101). -/
def Obligations.MeasHighOnlySetsBitsOfItsByte : Prop :=
  ∀ s t : State, Memory.wf s.fb = true → exec .stMeasHigh s = .next t →
    (∀ a, a ≠ s.i.toNat / 8 → t.byteAt a = s.byteAt a) ∧
    (∀ a k, (s.byteAt a).getLsbD k = true → (t.byteAt a).getLsbD k = true)

/-- The results change together, in CHECK (or a frame's validation) alone, and only with a checksum that holds
(R25, R26, R41): every other instruction leaves all three. -/
def Obligations.ResultsChangeOnlyOnAcceptance : Prop :=
  ∀ (i : Instr) (s t : State), exec i s = .next t →
    (t.hum = s.hum ∧ t.temp = s.temp ∧ t.rvalid = s.rvalid) ∨
    ((i = .stCheck ∨ ∃ h f tt g c, i = .frame h f tt g c) ∧ t.st = .done ∧ t.code = .ok ∧ t.rvalid = true ∧
      t.hum = some (t.byteAt 0) ∧ t.temp = some (t.byteAt 2) ∧
      accept (t.byteAt 0) (t.byteAt 1) (t.byteAt 2) (t.byteAt 3) (t.byteAt 4) = true)

/-- `inited` is set by INIT alone, and no instruction clears it (R27). -/
def Obligations.OnlyInitSetsInited : Prop :=
  ∀ (i : Instr) (s t : State), exec i s = .next t →
    (s.inited = true → t.inited = true) ∧
    (s.inited = false → t.inited = true →
      i = .init ∨ (i = .stIdle ∨ i = .stDone ∨ i = .stFailed) ∧ s.inp.cmd = some 0b101#3)

/-! ## The whole machine -/

/-- A step without a reset changes `code` only where it leaves the block at rest, a command having ended (R24). -/
def Obligations.CodeIsWrittenOnlyWhenACommandEnds : Prop :=
  ∀ s t : State, step s = .next t → s.inp.rst = false → t.code ≠ s.code → t.busy = false

/-- Every step goes along an edge of R126's table, or stays where R126 lets it stay. -/
def Obligations.EveryStepFollowsATransitionOfTheTable : Prop :=
  ∀ s t : State, step s = .next t → s.inp.rst = false → edge s.st t.st = true

/-- A step appends its pin operations to the history, at most two, each with the step's `now` (R31); a polling
state makes exactly one read, the first operation of its step, and no other state any (R36, R107, R129); and a
wait that is not over performs no other operation (R81). -/
def Obligations.StepAppendsItsPinOperations : Prop :=
  ∀ s t : State, step s = .next t → s.inp.rst = false → ∃ ops : List PinOp, ops.length ≤ 2 ∧
    t.hist = s.hist ++ ops.map (fun o => ⟨o, s.inp.now⟩) ∧
    (polling s.st = true → ∃ more, ops = .readLine s.inp.lvl :: more ∧ ∀ l, .readLine l ∉ more) ∧
    (polling s.st = false → ∀ l, .readLine l ∉ ops) ∧
    (s.busy = true → t.st = s.st → ops = if polling s.st then [.readLine s.inp.lvl] else [])

/-- The invariant of R32, with what R29, R128 and R129 say of the pin and of `code`, the buffer's canonical form
and the zeros of the slots not yet received, is kept by every step. -/
def Obligations.StepKeepsTheRegisterInvariant : Prop :=
  ∀ s t : State, Inv s → step s = .next t → Inv t

/-- The invariant holds at reset. -/
def Obligations.ResetStateMeetsTheRegisterInvariant : Prop := Inv State.reset

/-- The history read back gives the pin registers, every read in it was made while the pin was an input with its
pull-up on, and it holds as many `PullUp(0)` as `PullUp(1)`, one in force apart: kept by every step (R31, R42, R43,
R103, R146). -/
def Obligations.StepKeepsTheHistoryInvariant : Prop :=
  ∀ s t : State, Inv s → HistoryInv s → step s = .next t → HistoryInv t

/-- The history's invariant holds at reset. -/
def Obligations.ResetStateMeetsTheHistoryInvariant : Prop := HistoryInv State.reset

/-- The cleanup guarantee (R146): in the step in which `busy` falls, by completion, by an error or by reset, the
pull-up is off, the pin an input, and the latch 1. -/
def Obligations.PullUpIsOffWhenBusyFalls : Prop :=
  ∀ s t : State, Inv s → s.busy = true → step s = .next t → t.busy = false →
    t.pinPu = false ∧ t.pinDir = .input ∧ t.pinOut = .high

/-- From a state that meets the invariant no step faults, and a busy block without a host access always has a next
state (R124, R151). -/
def Obligations.NoReachableStateFaults : Prop :=
  ∀ s : State, Inv s → (∀ r, step s ≠ .fault r) ∧
    (s.busy = true → s.inp.host = none → ∃ t, step s = .next t)

/-- A READ runs forward (R133): each step of a busy block either enters a later state of the at most ninety
of a READ, or stays without touching `t0` because its wait is not over, or stays once for a rise poll; and when it
is no longer busy it is in DONE or FAILED. If time progresses every wait ends, and the READ with it; if the clock
stops, a wait whose level never comes never ends and the block stays busy (R83, R172; the form of the premise is
log 16's). -/
def Obligations.ReadRunsForwardThroughAtMostNinetyStates : Prop :=
  (∀ s t : State, Inv s → s.busy = true → s.inp.rst = false → step s = .next t →
    statesLeft s ≤ 90 ∧
    (statesLeft t < statesLeft s ∨
      t.st = s.st ∧ statesLeft t = statesLeft s ∧ t.t0 = s.t0 ∧
        ((s.inp.now - s.t0).toNat ≤ waitLimit s.st ∨ s.st = .measHigh ∧ s.hi = false ∧ t.hi = true)) ∧
    (t.busy = false → t.st = .done ∨ t.st = .failed)) ∧
  (∀ (e : Nat → Input) (r : Nat → State) (clock : Nat → Nat), Inv (r 0) → (∀ n, (e n).rst = false) →
    RunsUnder e r → TimeProgresses e clock →
    ∀ n, (r n).busy = true → ∃ m, n < m ∧ ((r m).st = .done ∨ (r m).st = .failed)) ∧
  (∀ (e : Nat → Input) (r : Nat → State) (stopped : Time), (∀ n, (e n).rst = false) → RunsUnder e r →
    (∀ n, (e n).now = stopped) → (stopped - (r 0).t0).toNat < waitLimit (r 0).st →
    (∀ n, pollStays (r 0).st (r n).hi (e n).lvl = true) →
    ∀ n, (r n).st = (r 0).st ∧ (r n).busy = true)

/-- READ carries nothing over (R132): two blocks in the same place of a READ that agree on the registers that mean
something there, given the same inputs, perform the same pin operations, stay in agreement while the READ runs,
and end with the same status and, on success, the same reading, whatever their other registers hold. -/
def Obligations.ReadDependsOnItsInputsAlone : Prop :=
  ∀ s s' t : State, SameRead s s' → s.busy = true → s.inp = s'.inp → s.inp.rst = false → s.inp.host = none →
    step s = .next t →
    ∃ (t' : State) (ops : List PinEvent), step s' = .next t' ∧ t.hist = s.hist ++ ops ∧ t'.hist = s'.hist ++ ops ∧
      SameRead t t' ∧
      (t.busy = false → t.code = t'.code) ∧
      (t.st = .done → t.hum = t'.hum ∧ t.temp = t'.temp ∧ t.rvalid = t'.rvalid) ∧
      (t.st ≠ .done → t.hum = s.hum ∧ t'.hum = s'.hum ∧ t.temp = s.temp ∧ t'.temp = s'.temp)

/-- Two READs accepted at the same time start alike, whatever the two blocks held before (R132). -/
def Obligations.AcceptedReadsStartAlike : Prop :=
  ∀ s s' : State, s.busy = false → s'.busy = false → s.inited = true → s'.inited = true →
    s.inp.now = s'.inp.now →
    ∃ t t', exec .read s = .next t ∧ exec .read s' = .next t' ∧ SameRead t t' ∧ t.busy = true
end

