-- ==== Sys2Proof/Laws/Memory.lean ====
section
/-! SUPPORT. The laws of the frame buffer: reads after writes, the canonical form kept by every write, and equal
reads making equal memories. -/

namespace Sys2Proof.Machine

open Sys2Proof

@[simp] theorem Memory.read_nil (a : Nat) : Memory.read [] a = 0#8 := rfl

theorem Memory.wfFrom_mono {lo lo' : Nat} (h : lo' ≤ lo) : ∀ {m : Memory}, Memory.wfFrom lo m = true →
    Memory.wfFrom lo' m = true := by
  intro m hm
  cases m with
  | nil => rfl
  | cons c rest =>
    obtain ⟨a, v⟩ := c
    simp only [Memory.wfFrom, Bool.and_eq_true, decide_eq_true_eq] at hm ⊢
    exact ⟨⟨⟨by omega, hm.1.1.2⟩, hm.1.2⟩, hm.2⟩

/-- An address below every listed one reads 0. -/
theorem Memory.read_of_lt {lo a : Nat} (h : a < lo) : ∀ {m : Memory}, Memory.wfFrom lo m = true →
    Memory.read m a = 0#8 := by
  intro m
  induction m generalizing lo with
  | nil => intro _; rfl
  | cons c rest ih =>
    obtain ⟨b, v⟩ := c
    intro hm
    simp only [Memory.wfFrom, Bool.and_eq_true, decide_eq_true_eq] at hm
    have hb : a ≠ b := by omega
    simp only [Memory.read, hb, if_false]
    exact ih (by omega) hm.2

/-- Reading where a canonical memory was written gives the value written. -/
theorem Memory.read_write_same {lo : Nat} {m : Memory} (hm : Memory.wfFrom lo m = true) (a : Nat) (v : Byte) :
    Memory.read (Memory.write m a v) a = v := by
  induction m generalizing lo with
  | nil =>
    by_cases hv : v = 0#8 <;> simp [Memory.write, Memory.read, hv]
  | cons c rest ih =>
    obtain ⟨b, w⟩ := c
    simp only [Memory.wfFrom, Bool.and_eq_true, decide_eq_true_eq] at hm
    have hrest : Memory.wfFrom (b + 1) rest = true := hm.2
    unfold Memory.write
    split_ifs with h1 hv h2 hv
    · have hb : a ≠ b := by omega
      simp only [Memory.read, hb, if_false]
      rw [Memory.read_of_lt (by omega) hrest, hv]
    · simp [Memory.read]
    · rw [Memory.read_of_lt (by omega) hrest, hv]
    · simp [Memory.read]
    · simp only [Memory.read, h2, if_false]
      exact ih hrest

/-- A write leaves every other address alone. -/
theorem Memory.read_write_other {lo : Nat} {m : Memory} (hm : Memory.wfFrom lo m = true) {a b : Nat} (hab : b ≠ a)
    (v : Byte) : Memory.read (Memory.write m a v) b = Memory.read m b := by
  induction m generalizing lo with
  | nil =>
    by_cases hv : v = 0#8 <;> simp [Memory.write, Memory.read, hv, hab]
  | cons c rest ih =>
    obtain ⟨x, w⟩ := c
    simp only [Memory.wfFrom, Bool.and_eq_true, decide_eq_true_eq] at hm
    have hrest : Memory.wfFrom (x + 1) rest = true := hm.2
    unfold Memory.write
    split_ifs with h1 hv h2 hv
    · rfl
    · simp [Memory.read, hab]
    · have hx : b ≠ x := by omega
      simp [Memory.read, hx]
    · have hx : b ≠ x := by omega
      simp [Memory.read, hx, hab]
    · simp only [Memory.read]
      rw [ih hrest]

/-- A write inside the buffer keeps the canonical form. -/
theorem Memory.wfFrom_write {lo : Nat} {m : Memory} (hm : Memory.wfFrom lo m = true) {a : Nat} (hlo : lo ≤ a)
    (ha : a < Config.nBytes) (v : Byte) : Memory.wfFrom lo (Memory.write m a v) = true := by
  induction m generalizing lo with
  | nil =>
    by_cases hv : v = 0#8
    · simp [Memory.write, Memory.wfFrom, hv]
    · simp [Memory.write, Memory.wfFrom, hv, hlo, ha]
  | cons c rest ih =>
    obtain ⟨x, w⟩ := c
    have hm' := hm
    simp only [Memory.wfFrom, Bool.and_eq_true, decide_eq_true_eq] at hm
    obtain ⟨⟨⟨h0, h5⟩, hw⟩, hrest⟩ := hm
    unfold Memory.write
    split_ifs with h1 hv h2 hv
    · exact hm'
    · simp only [Memory.wfFrom, Bool.and_eq_true, decide_eq_true_eq]
      exact ⟨⟨⟨hlo, ha⟩, hv⟩, ⟨⟨⟨by omega, h5⟩, hw⟩, hrest⟩⟩
    · exact Memory.wfFrom_mono (by omega) hrest
    · subst h2
      simp only [Memory.wfFrom, Bool.and_eq_true, decide_eq_true_eq]
      exact ⟨⟨⟨hlo, ha⟩, hv⟩, hrest⟩
    · simp only [Memory.wfFrom, Bool.and_eq_true, decide_eq_true_eq]
      exact ⟨⟨⟨h0, h5⟩, hw⟩, ih hrest (by omega)⟩

/-- A write inside the buffer keeps the canonical form. -/
theorem Memory.wf_write {m : Memory} (hm : Memory.wf m = true) {a : Nat} (ha : a < Config.nBytes) (v : Byte) :
    Memory.wf (Memory.write m a v) = true := Memory.wfFrom_write hm (Nat.zero_le a) ha v

/-- The zeroed buffer is in canonical form. -/
theorem Memory.wf_nil : Memory.wf [] = true := rfl

/-- Five bytes given make a canonical buffer. -/
theorem Memory.wf_ofBytes (b0 b1 b2 b3 b4 : Byte) : Memory.wf (Memory.ofBytes b0 b1 b2 b3 b4) = true :=
  Memory.wf_write (Memory.wf_write (Memory.wf_write (Memory.wf_write (Memory.wf_write Memory.wf_nil
    (by decide) b0) (by decide) b1) (by decide) b2) (by decide) b3) (by decide) b4

/-- The buffer of five given bytes reads as those bytes. -/
theorem Memory.read_ofBytes (b0 b1 b2 b3 b4 : Byte) :
    Memory.read (Memory.ofBytes b0 b1 b2 b3 b4) 0 = b0 ∧ Memory.read (Memory.ofBytes b0 b1 b2 b3 b4) 1 = b1 ∧
    Memory.read (Memory.ofBytes b0 b1 b2 b3 b4) 2 = b2 ∧ Memory.read (Memory.ofBytes b0 b1 b2 b3 b4) 3 = b3 ∧
    Memory.read (Memory.ofBytes b0 b1 b2 b3 b4) 4 = b4 := by
  have w0 := Memory.wf_write Memory.wf_nil (a := 0) (by decide) b0
  have w1 := Memory.wf_write w0 (a := 1) (by decide) b1
  have w2 := Memory.wf_write w1 (a := 2) (by decide) b2
  have w3 := Memory.wf_write w2 (a := 3) (by decide) b3
  unfold Memory.ofBytes
  refine ⟨?_, ?_, ?_, ?_, ?_⟩
  · rw [Memory.read_write_other w3 (by decide), Memory.read_write_other w2 (by decide),
      Memory.read_write_other w1 (by decide), Memory.read_write_other w0 (by decide),
      Memory.read_write_same (lo := 0) rfl]
  · rw [Memory.read_write_other w3 (by decide), Memory.read_write_other w2 (by decide),
      Memory.read_write_other w1 (by decide), Memory.read_write_same w0]
  · rw [Memory.read_write_other w3 (by decide), Memory.read_write_other w2 (by decide), Memory.read_write_same w1]
  · rw [Memory.read_write_other w3 (by decide), Memory.read_write_same w2]
  · rw [Memory.read_write_same w3]

/-- Two canonical buffers that read alike are equal. -/
theorem Memory.eq_of_read_eq {lo : Nat} {m m' : Memory} (hm : Memory.wfFrom lo m = true)
    (hm' : Memory.wfFrom lo m' = true) (h : ∀ a, Memory.read m a = Memory.read m' a) : m = m' := by
  induction m generalizing lo m' with
  | nil =>
    cases m' with
    | nil => rfl
    | cons c rest =>
      obtain ⟨b, v⟩ := c
      simp only [Memory.wfFrom, Bool.and_eq_true, decide_eq_true_eq] at hm'
      have := h b
      simp [Memory.read] at this
      exact absurd this.symm hm'.1.2
  | cons c rest ih =>
    obtain ⟨a, v⟩ := c
    have hmc := hm
    simp only [Memory.wfFrom, Bool.and_eq_true, decide_eq_true_eq] at hm
    obtain ⟨⟨⟨ha0, ha5⟩, hv⟩, hrest⟩ := hm
    have hav : Memory.read ((a, v) :: rest) a = v := by simp [Memory.read]
    cases m' with
    | nil => exact absurd ((hav.symm.trans (h a)).trans rfl) hv
    | cons c' rest' =>
      obtain ⟨b, w⟩ := c'
      have hmc' := hm'
      simp only [Memory.wfFrom, Bool.and_eq_true, decide_eq_true_eq] at hm'
      obtain ⟨⟨⟨hb0, hb5⟩, hw⟩, hrest'⟩ := hm'
      have hbw : Memory.read ((b, w) :: rest') b = w := by simp [Memory.read]
      have hab : a = b := by
        rcases Nat.lt_trichotomy a b with hlt | heq | hgt
        · have : Memory.read ((b, w) :: rest') a = 0#8 := by
            have hne : a ≠ b := by omega
            simp only [Memory.read, hne, if_false]
            exact Memory.read_of_lt (by omega) hrest'
          exact absurd ((hav.symm.trans (h a)).trans this) hv
        · exact heq
        · have : Memory.read ((a, v) :: rest) b = 0#8 := by
            have hne : b ≠ a := by omega
            simp only [Memory.read, hne, if_false]
            exact Memory.read_of_lt (by omega) hrest
          exact absurd ((hbw.symm.trans (h b).symm).trans this) hw
      subst hab
      have hvw : v = w := hav.symm.trans ((h a).trans hbw)
      subst hvw
      have : rest = rest' := by
        apply ih hrest hrest'
        intro x
        by_cases hx : x = a
        · subst hx
          rw [Memory.read_of_lt (by omega) hrest, Memory.read_of_lt (by omega) hrest']
        · have := h x
          simpa only [Memory.read, hx, if_false] using this
      rw [this]

/-- An address outside the buffer reads 0. -/
theorem Memory.read_outside {lo : Nat} {m : Memory} (h : Memory.wfFrom lo m = true) {a : Nat} (ha : 5 ≤ a) :
    Memory.read m a = 0#8 := by
  induction m generalizing lo with
  | nil => rfl
  | cons c rest ih =>
    obtain ⟨b, v⟩ := c
    simp only [Memory.wfFrom, Bool.and_eq_true, decide_eq_true_eq] at h
    have hb : b < 5 := h.1.1.2
    have hab : a ≠ b := by omega
    simp only [Memory.read, hab, if_false]
    exact ih h.2

/-- A canonical buffer is the buffer of its own five bytes. -/
theorem Memory.ofBytes_read {m : Memory} (h : Memory.wf m = true) :
    Memory.ofBytes (Memory.read m 0) (Memory.read m 1) (Memory.read m 2) (Memory.read m 3) (Memory.read m 4) = m := by
  have hw := Memory.wf_ofBytes (Memory.read m 0) (Memory.read m 1) (Memory.read m 2) (Memory.read m 3) (Memory.read m 4)
  obtain ⟨h0, h1, h2, h3, h4⟩ := Memory.read_ofBytes (Memory.read m 0) (Memory.read m 1) (Memory.read m 2)
    (Memory.read m 3) (Memory.read m 4)
  refine Memory.eq_of_read_eq hw h fun a => ?_
  by_cases ha : 5 ≤ a
  · rw [Memory.read_outside hw ha, Memory.read_outside h ha]
  · have : a = 0 ∨ a = 1 ∨ a = 2 ∨ a = 3 ∨ a = 4 := by omega
    rcases this with rfl | rfl | rfl | rfl | rfl <;> assumption

end Sys2Proof.Machine
end

