-- ==== Sys2Proof/Laws/State.lean ====
section
/-! SUPPORT. One lemma per field per update of State, each true by rfl, so that no later proof unfolds a record
update. -/

namespace Sys2Proof.Machine

open Sys2Proof

/-! ## goto -/

@[simp] theorem State.goto_st (s : State) (x : St) : (s.goto x).st = x := rfl
@[simp] theorem State.goto_att (s : State) (x : St) : (s.goto x).att = s.att := rfl
@[simp] theorem State.goto_i (s : State) (x : St) : (s.goto x).i = s.i := rfl
@[simp] theorem State.goto_hi (s : State) (x : St) : (s.goto x).hi = s.hi := rfl
@[simp] theorem State.goto_t0 (s : State) (x : St) : (s.goto x).t0 = s.t0 := rfl
@[simp] theorem State.goto_tr (s : State) (x : St) : (s.goto x).tr = s.tr := rfl
@[simp] theorem State.goto_dur (s : State) (x : St) : (s.goto x).dur = s.dur := rfl
@[simp] theorem State.goto_fb (s : State) (x : St) : (s.goto x).fb = s.fb := rfl
@[simp] theorem State.goto_code (s : State) (x : St) : (s.goto x).code = s.code := rfl
@[simp] theorem State.goto_hum (s : State) (x : St) : (s.goto x).hum = s.hum := rfl
@[simp] theorem State.goto_temp (s : State) (x : St) : (s.goto x).temp = s.temp := rfl
@[simp] theorem State.goto_rvalid (s : State) (x : St) : (s.goto x).rvalid = s.rvalid := rfl
@[simp] theorem State.goto_inited (s : State) (x : St) : (s.goto x).inited = s.inited := rfl
@[simp] theorem State.goto_pinDir (s : State) (x : St) : (s.goto x).pinDir = s.pinDir := rfl
@[simp] theorem State.goto_pinOut (s : State) (x : St) : (s.goto x).pinOut = s.pinOut := rfl
@[simp] theorem State.goto_pinPu (s : State) (x : St) : (s.goto x).pinPu = s.pinPu := rfl
@[simp] theorem State.goto_hist (s : State) (x : St) : (s.goto x).hist = s.hist := rfl
@[simp] theorem State.goto_hostWord (s : State) (x : St) : (s.goto x).hostWord = s.hostWord := rfl
@[simp] theorem State.goto_inp (s : State) (x : St) : (s.goto x).inp = s.inp := rfl
@[simp] theorem State.goto_env (s : State) (x : St) : (s.goto x).env = s.env := rfl
@[simp] theorem State.goto_fresh (s : State) (x : St) : (s.goto x).fresh = s.fresh := rfl

/-! ## enter -/

@[simp] theorem State.enter_st (s : State) (x : St) : (s.enter x).st = x := rfl
@[simp] theorem State.enter_att (s : State) (x : St) : (s.enter x).att = s.att := rfl
@[simp] theorem State.enter_i (s : State) (x : St) : (s.enter x).i = s.i := rfl
@[simp] theorem State.enter_hi (s : State) (x : St) : (s.enter x).hi = s.hi := rfl
@[simp] theorem State.enter_t0 (s : State) (x : St) : (s.enter x).t0 = s.inp.now := rfl
@[simp] theorem State.enter_tr (s : State) (x : St) : (s.enter x).tr = s.tr := rfl
@[simp] theorem State.enter_dur (s : State) (x : St) : (s.enter x).dur = s.dur := rfl
@[simp] theorem State.enter_fb (s : State) (x : St) : (s.enter x).fb = s.fb := rfl
@[simp] theorem State.enter_code (s : State) (x : St) : (s.enter x).code = s.code := rfl
@[simp] theorem State.enter_hum (s : State) (x : St) : (s.enter x).hum = s.hum := rfl
@[simp] theorem State.enter_temp (s : State) (x : St) : (s.enter x).temp = s.temp := rfl
@[simp] theorem State.enter_rvalid (s : State) (x : St) : (s.enter x).rvalid = s.rvalid := rfl
@[simp] theorem State.enter_inited (s : State) (x : St) : (s.enter x).inited = s.inited := rfl
@[simp] theorem State.enter_pinDir (s : State) (x : St) : (s.enter x).pinDir = s.pinDir := rfl
@[simp] theorem State.enter_pinOut (s : State) (x : St) : (s.enter x).pinOut = s.pinOut := rfl
@[simp] theorem State.enter_pinPu (s : State) (x : St) : (s.enter x).pinPu = s.pinPu := rfl
@[simp] theorem State.enter_hist (s : State) (x : St) : (s.enter x).hist = s.hist := rfl
@[simp] theorem State.enter_hostWord (s : State) (x : St) : (s.enter x).hostWord = s.hostWord := rfl
@[simp] theorem State.enter_inp (s : State) (x : St) : (s.enter x).inp = s.inp := rfl
@[simp] theorem State.enter_env (s : State) (x : St) : (s.enter x).env = s.env := rfl
@[simp] theorem State.enter_fresh (s : State) (x : St) : (s.enter x).fresh = s.fresh := rfl

/-! ## setCode -/

@[simp] theorem State.setCode_st (s : State) (c : Code) : (s.setCode c).st = s.st := rfl
@[simp] theorem State.setCode_att (s : State) (c : Code) : (s.setCode c).att = s.att := rfl
@[simp] theorem State.setCode_i (s : State) (c : Code) : (s.setCode c).i = s.i := rfl
@[simp] theorem State.setCode_hi (s : State) (c : Code) : (s.setCode c).hi = s.hi := rfl
@[simp] theorem State.setCode_t0 (s : State) (c : Code) : (s.setCode c).t0 = s.t0 := rfl
@[simp] theorem State.setCode_tr (s : State) (c : Code) : (s.setCode c).tr = s.tr := rfl
@[simp] theorem State.setCode_dur (s : State) (c : Code) : (s.setCode c).dur = s.dur := rfl
@[simp] theorem State.setCode_fb (s : State) (c : Code) : (s.setCode c).fb = s.fb := rfl
@[simp] theorem State.setCode_code (s : State) (c : Code) : (s.setCode c).code = c := rfl
@[simp] theorem State.setCode_hum (s : State) (c : Code) : (s.setCode c).hum = s.hum := rfl
@[simp] theorem State.setCode_temp (s : State) (c : Code) : (s.setCode c).temp = s.temp := rfl
@[simp] theorem State.setCode_rvalid (s : State) (c : Code) : (s.setCode c).rvalid = s.rvalid := rfl
@[simp] theorem State.setCode_inited (s : State) (c : Code) : (s.setCode c).inited = s.inited := rfl
@[simp] theorem State.setCode_pinDir (s : State) (c : Code) : (s.setCode c).pinDir = s.pinDir := rfl
@[simp] theorem State.setCode_pinOut (s : State) (c : Code) : (s.setCode c).pinOut = s.pinOut := rfl
@[simp] theorem State.setCode_pinPu (s : State) (c : Code) : (s.setCode c).pinPu = s.pinPu := rfl
@[simp] theorem State.setCode_hist (s : State) (c : Code) : (s.setCode c).hist = s.hist := rfl
@[simp] theorem State.setCode_hostWord (s : State) (c : Code) : (s.setCode c).hostWord = s.hostWord := rfl
@[simp] theorem State.setCode_inp (s : State) (c : Code) : (s.setCode c).inp = s.inp := rfl
@[simp] theorem State.setCode_env (s : State) (c : Code) : (s.setCode c).env = s.env := rfl
@[simp] theorem State.setCode_fresh (s : State) (c : Code) : (s.setCode c).fresh = s.fresh := rfl

/-! ## setAtt -/

@[simp] theorem State.setAtt_st (s : State) (a : BitVec 1) : (s.setAtt a).st = s.st := rfl
@[simp] theorem State.setAtt_att (s : State) (a : BitVec 1) : (s.setAtt a).att = a := rfl
@[simp] theorem State.setAtt_i (s : State) (a : BitVec 1) : (s.setAtt a).i = s.i := rfl
@[simp] theorem State.setAtt_hi (s : State) (a : BitVec 1) : (s.setAtt a).hi = s.hi := rfl
@[simp] theorem State.setAtt_t0 (s : State) (a : BitVec 1) : (s.setAtt a).t0 = s.t0 := rfl
@[simp] theorem State.setAtt_tr (s : State) (a : BitVec 1) : (s.setAtt a).tr = s.tr := rfl
@[simp] theorem State.setAtt_dur (s : State) (a : BitVec 1) : (s.setAtt a).dur = s.dur := rfl
@[simp] theorem State.setAtt_fb (s : State) (a : BitVec 1) : (s.setAtt a).fb = s.fb := rfl
@[simp] theorem State.setAtt_code (s : State) (a : BitVec 1) : (s.setAtt a).code = s.code := rfl
@[simp] theorem State.setAtt_hum (s : State) (a : BitVec 1) : (s.setAtt a).hum = s.hum := rfl
@[simp] theorem State.setAtt_temp (s : State) (a : BitVec 1) : (s.setAtt a).temp = s.temp := rfl
@[simp] theorem State.setAtt_rvalid (s : State) (a : BitVec 1) : (s.setAtt a).rvalid = s.rvalid := rfl
@[simp] theorem State.setAtt_inited (s : State) (a : BitVec 1) : (s.setAtt a).inited = s.inited := rfl
@[simp] theorem State.setAtt_pinDir (s : State) (a : BitVec 1) : (s.setAtt a).pinDir = s.pinDir := rfl
@[simp] theorem State.setAtt_pinOut (s : State) (a : BitVec 1) : (s.setAtt a).pinOut = s.pinOut := rfl
@[simp] theorem State.setAtt_pinPu (s : State) (a : BitVec 1) : (s.setAtt a).pinPu = s.pinPu := rfl
@[simp] theorem State.setAtt_hist (s : State) (a : BitVec 1) : (s.setAtt a).hist = s.hist := rfl
@[simp] theorem State.setAtt_hostWord (s : State) (a : BitVec 1) : (s.setAtt a).hostWord = s.hostWord := rfl
@[simp] theorem State.setAtt_inp (s : State) (a : BitVec 1) : (s.setAtt a).inp = s.inp := rfl
@[simp] theorem State.setAtt_env (s : State) (a : BitVec 1) : (s.setAtt a).env = s.env := rfl
@[simp] theorem State.setAtt_fresh (s : State) (a : BitVec 1) : (s.setAtt a).fresh = s.fresh := rfl

/-! ## setIndex -/

@[simp] theorem State.setIndex_st (s : State) (k : BitVec 6) : (s.setIndex k).st = s.st := rfl
@[simp] theorem State.setIndex_att (s : State) (k : BitVec 6) : (s.setIndex k).att = s.att := rfl
@[simp] theorem State.setIndex_i (s : State) (k : BitVec 6) : (s.setIndex k).i = k := rfl
@[simp] theorem State.setIndex_hi (s : State) (k : BitVec 6) : (s.setIndex k).hi = s.hi := rfl
@[simp] theorem State.setIndex_t0 (s : State) (k : BitVec 6) : (s.setIndex k).t0 = s.t0 := rfl
@[simp] theorem State.setIndex_tr (s : State) (k : BitVec 6) : (s.setIndex k).tr = s.tr := rfl
@[simp] theorem State.setIndex_dur (s : State) (k : BitVec 6) : (s.setIndex k).dur = s.dur := rfl
@[simp] theorem State.setIndex_fb (s : State) (k : BitVec 6) : (s.setIndex k).fb = s.fb := rfl
@[simp] theorem State.setIndex_code (s : State) (k : BitVec 6) : (s.setIndex k).code = s.code := rfl
@[simp] theorem State.setIndex_hum (s : State) (k : BitVec 6) : (s.setIndex k).hum = s.hum := rfl
@[simp] theorem State.setIndex_temp (s : State) (k : BitVec 6) : (s.setIndex k).temp = s.temp := rfl
@[simp] theorem State.setIndex_rvalid (s : State) (k : BitVec 6) : (s.setIndex k).rvalid = s.rvalid := rfl
@[simp] theorem State.setIndex_inited (s : State) (k : BitVec 6) : (s.setIndex k).inited = s.inited := rfl
@[simp] theorem State.setIndex_pinDir (s : State) (k : BitVec 6) : (s.setIndex k).pinDir = s.pinDir := rfl
@[simp] theorem State.setIndex_pinOut (s : State) (k : BitVec 6) : (s.setIndex k).pinOut = s.pinOut := rfl
@[simp] theorem State.setIndex_pinPu (s : State) (k : BitVec 6) : (s.setIndex k).pinPu = s.pinPu := rfl
@[simp] theorem State.setIndex_hist (s : State) (k : BitVec 6) : (s.setIndex k).hist = s.hist := rfl
@[simp] theorem State.setIndex_hostWord (s : State) (k : BitVec 6) : (s.setIndex k).hostWord = s.hostWord := rfl
@[simp] theorem State.setIndex_inp (s : State) (k : BitVec 6) : (s.setIndex k).inp = s.inp := rfl
@[simp] theorem State.setIndex_env (s : State) (k : BitVec 6) : (s.setIndex k).env = s.env := rfl
@[simp] theorem State.setIndex_fresh (s : State) (k : BitVec 6) : (s.setIndex k).fresh = s.fresh := rfl

/-! ## setHi -/

@[simp] theorem State.setHi_st (s : State) (b : Bool) : (s.setHi b).st = s.st := rfl
@[simp] theorem State.setHi_att (s : State) (b : Bool) : (s.setHi b).att = s.att := rfl
@[simp] theorem State.setHi_i (s : State) (b : Bool) : (s.setHi b).i = s.i := rfl
@[simp] theorem State.setHi_hi (s : State) (b : Bool) : (s.setHi b).hi = b := rfl
@[simp] theorem State.setHi_t0 (s : State) (b : Bool) : (s.setHi b).t0 = s.t0 := rfl
@[simp] theorem State.setHi_tr (s : State) (b : Bool) : (s.setHi b).tr = s.tr := rfl
@[simp] theorem State.setHi_dur (s : State) (b : Bool) : (s.setHi b).dur = s.dur := rfl
@[simp] theorem State.setHi_fb (s : State) (b : Bool) : (s.setHi b).fb = s.fb := rfl
@[simp] theorem State.setHi_code (s : State) (b : Bool) : (s.setHi b).code = s.code := rfl
@[simp] theorem State.setHi_hum (s : State) (b : Bool) : (s.setHi b).hum = s.hum := rfl
@[simp] theorem State.setHi_temp (s : State) (b : Bool) : (s.setHi b).temp = s.temp := rfl
@[simp] theorem State.setHi_rvalid (s : State) (b : Bool) : (s.setHi b).rvalid = s.rvalid := rfl
@[simp] theorem State.setHi_inited (s : State) (b : Bool) : (s.setHi b).inited = s.inited := rfl
@[simp] theorem State.setHi_pinDir (s : State) (b : Bool) : (s.setHi b).pinDir = s.pinDir := rfl
@[simp] theorem State.setHi_pinOut (s : State) (b : Bool) : (s.setHi b).pinOut = s.pinOut := rfl
@[simp] theorem State.setHi_pinPu (s : State) (b : Bool) : (s.setHi b).pinPu = s.pinPu := rfl
@[simp] theorem State.setHi_hist (s : State) (b : Bool) : (s.setHi b).hist = s.hist := rfl
@[simp] theorem State.setHi_hostWord (s : State) (b : Bool) : (s.setHi b).hostWord = s.hostWord := rfl
@[simp] theorem State.setHi_inp (s : State) (b : Bool) : (s.setHi b).inp = s.inp := rfl
@[simp] theorem State.setHi_env (s : State) (b : Bool) : (s.setHi b).env = s.env := rfl
@[simp] theorem State.setHi_fresh (s : State) (b : Bool) : (s.setHi b).fresh = s.fresh := rfl

/-! ## setTr -/

@[simp] theorem State.setTr_st (s : State) (t : Time) : (s.setTr t).st = s.st := rfl
@[simp] theorem State.setTr_att (s : State) (t : Time) : (s.setTr t).att = s.att := rfl
@[simp] theorem State.setTr_i (s : State) (t : Time) : (s.setTr t).i = s.i := rfl
@[simp] theorem State.setTr_hi (s : State) (t : Time) : (s.setTr t).hi = s.hi := rfl
@[simp] theorem State.setTr_t0 (s : State) (t : Time) : (s.setTr t).t0 = s.t0 := rfl
@[simp] theorem State.setTr_tr (s : State) (t : Time) : (s.setTr t).tr = t := rfl
@[simp] theorem State.setTr_dur (s : State) (t : Time) : (s.setTr t).dur = s.dur := rfl
@[simp] theorem State.setTr_fb (s : State) (t : Time) : (s.setTr t).fb = s.fb := rfl
@[simp] theorem State.setTr_code (s : State) (t : Time) : (s.setTr t).code = s.code := rfl
@[simp] theorem State.setTr_hum (s : State) (t : Time) : (s.setTr t).hum = s.hum := rfl
@[simp] theorem State.setTr_temp (s : State) (t : Time) : (s.setTr t).temp = s.temp := rfl
@[simp] theorem State.setTr_rvalid (s : State) (t : Time) : (s.setTr t).rvalid = s.rvalid := rfl
@[simp] theorem State.setTr_inited (s : State) (t : Time) : (s.setTr t).inited = s.inited := rfl
@[simp] theorem State.setTr_pinDir (s : State) (t : Time) : (s.setTr t).pinDir = s.pinDir := rfl
@[simp] theorem State.setTr_pinOut (s : State) (t : Time) : (s.setTr t).pinOut = s.pinOut := rfl
@[simp] theorem State.setTr_pinPu (s : State) (t : Time) : (s.setTr t).pinPu = s.pinPu := rfl
@[simp] theorem State.setTr_hist (s : State) (t : Time) : (s.setTr t).hist = s.hist := rfl
@[simp] theorem State.setTr_hostWord (s : State) (t : Time) : (s.setTr t).hostWord = s.hostWord := rfl
@[simp] theorem State.setTr_inp (s : State) (t : Time) : (s.setTr t).inp = s.inp := rfl
@[simp] theorem State.setTr_env (s : State) (t : Time) : (s.setTr t).env = s.env := rfl
@[simp] theorem State.setTr_fresh (s : State) (t : Time) : (s.setTr t).fresh = s.fresh := rfl

/-! ## setDur -/

@[simp] theorem State.setDur_st (s : State) (d : Time) : (s.setDur d).st = s.st := rfl
@[simp] theorem State.setDur_att (s : State) (d : Time) : (s.setDur d).att = s.att := rfl
@[simp] theorem State.setDur_i (s : State) (d : Time) : (s.setDur d).i = s.i := rfl
@[simp] theorem State.setDur_hi (s : State) (d : Time) : (s.setDur d).hi = s.hi := rfl
@[simp] theorem State.setDur_t0 (s : State) (d : Time) : (s.setDur d).t0 = s.t0 := rfl
@[simp] theorem State.setDur_tr (s : State) (d : Time) : (s.setDur d).tr = s.tr := rfl
@[simp] theorem State.setDur_dur (s : State) (d : Time) : (s.setDur d).dur = d := rfl
@[simp] theorem State.setDur_fb (s : State) (d : Time) : (s.setDur d).fb = s.fb := rfl
@[simp] theorem State.setDur_code (s : State) (d : Time) : (s.setDur d).code = s.code := rfl
@[simp] theorem State.setDur_hum (s : State) (d : Time) : (s.setDur d).hum = s.hum := rfl
@[simp] theorem State.setDur_temp (s : State) (d : Time) : (s.setDur d).temp = s.temp := rfl
@[simp] theorem State.setDur_rvalid (s : State) (d : Time) : (s.setDur d).rvalid = s.rvalid := rfl
@[simp] theorem State.setDur_inited (s : State) (d : Time) : (s.setDur d).inited = s.inited := rfl
@[simp] theorem State.setDur_pinDir (s : State) (d : Time) : (s.setDur d).pinDir = s.pinDir := rfl
@[simp] theorem State.setDur_pinOut (s : State) (d : Time) : (s.setDur d).pinOut = s.pinOut := rfl
@[simp] theorem State.setDur_pinPu (s : State) (d : Time) : (s.setDur d).pinPu = s.pinPu := rfl
@[simp] theorem State.setDur_hist (s : State) (d : Time) : (s.setDur d).hist = s.hist := rfl
@[simp] theorem State.setDur_hostWord (s : State) (d : Time) : (s.setDur d).hostWord = s.hostWord := rfl
@[simp] theorem State.setDur_inp (s : State) (d : Time) : (s.setDur d).inp = s.inp := rfl
@[simp] theorem State.setDur_env (s : State) (d : Time) : (s.setDur d).env = s.env := rfl
@[simp] theorem State.setDur_fresh (s : State) (d : Time) : (s.setDur d).fresh = s.fresh := rfl

/-! ## setFb -/

@[simp] theorem State.setFb_st (s : State) (m : Memory) : (s.setFb m).st = s.st := rfl
@[simp] theorem State.setFb_att (s : State) (m : Memory) : (s.setFb m).att = s.att := rfl
@[simp] theorem State.setFb_i (s : State) (m : Memory) : (s.setFb m).i = s.i := rfl
@[simp] theorem State.setFb_hi (s : State) (m : Memory) : (s.setFb m).hi = s.hi := rfl
@[simp] theorem State.setFb_t0 (s : State) (m : Memory) : (s.setFb m).t0 = s.t0 := rfl
@[simp] theorem State.setFb_tr (s : State) (m : Memory) : (s.setFb m).tr = s.tr := rfl
@[simp] theorem State.setFb_dur (s : State) (m : Memory) : (s.setFb m).dur = s.dur := rfl
@[simp] theorem State.setFb_fb (s : State) (m : Memory) : (s.setFb m).fb = m := rfl
@[simp] theorem State.setFb_code (s : State) (m : Memory) : (s.setFb m).code = s.code := rfl
@[simp] theorem State.setFb_hum (s : State) (m : Memory) : (s.setFb m).hum = s.hum := rfl
@[simp] theorem State.setFb_temp (s : State) (m : Memory) : (s.setFb m).temp = s.temp := rfl
@[simp] theorem State.setFb_rvalid (s : State) (m : Memory) : (s.setFb m).rvalid = s.rvalid := rfl
@[simp] theorem State.setFb_inited (s : State) (m : Memory) : (s.setFb m).inited = s.inited := rfl
@[simp] theorem State.setFb_pinDir (s : State) (m : Memory) : (s.setFb m).pinDir = s.pinDir := rfl
@[simp] theorem State.setFb_pinOut (s : State) (m : Memory) : (s.setFb m).pinOut = s.pinOut := rfl
@[simp] theorem State.setFb_pinPu (s : State) (m : Memory) : (s.setFb m).pinPu = s.pinPu := rfl
@[simp] theorem State.setFb_hist (s : State) (m : Memory) : (s.setFb m).hist = s.hist := rfl
@[simp] theorem State.setFb_hostWord (s : State) (m : Memory) : (s.setFb m).hostWord = s.hostWord := rfl
@[simp] theorem State.setFb_inp (s : State) (m : Memory) : (s.setFb m).inp = s.inp := rfl
@[simp] theorem State.setFb_env (s : State) (m : Memory) : (s.setFb m).env = s.env := rfl
@[simp] theorem State.setFb_fresh (s : State) (m : Memory) : (s.setFb m).fresh = s.fresh := rfl

/-! ## setResult -/

@[simp] theorem State.setResult_st (s : State) (h t : Byte) : (s.setResult h t).st = s.st := rfl
@[simp] theorem State.setResult_att (s : State) (h t : Byte) : (s.setResult h t).att = s.att := rfl
@[simp] theorem State.setResult_i (s : State) (h t : Byte) : (s.setResult h t).i = s.i := rfl
@[simp] theorem State.setResult_hi (s : State) (h t : Byte) : (s.setResult h t).hi = s.hi := rfl
@[simp] theorem State.setResult_t0 (s : State) (h t : Byte) : (s.setResult h t).t0 = s.t0 := rfl
@[simp] theorem State.setResult_tr (s : State) (h t : Byte) : (s.setResult h t).tr = s.tr := rfl
@[simp] theorem State.setResult_dur (s : State) (h t : Byte) : (s.setResult h t).dur = s.dur := rfl
@[simp] theorem State.setResult_fb (s : State) (h t : Byte) : (s.setResult h t).fb = s.fb := rfl
@[simp] theorem State.setResult_code (s : State) (h t : Byte) : (s.setResult h t).code = s.code := rfl
@[simp] theorem State.setResult_hum (s : State) (h t : Byte) : (s.setResult h t).hum = some h := rfl
@[simp] theorem State.setResult_temp (s : State) (h t : Byte) : (s.setResult h t).temp = some t := rfl
@[simp] theorem State.setResult_rvalid (s : State) (h t : Byte) : (s.setResult h t).rvalid = true := rfl
@[simp] theorem State.setResult_inited (s : State) (h t : Byte) : (s.setResult h t).inited = s.inited := rfl
@[simp] theorem State.setResult_pinDir (s : State) (h t : Byte) : (s.setResult h t).pinDir = s.pinDir := rfl
@[simp] theorem State.setResult_pinOut (s : State) (h t : Byte) : (s.setResult h t).pinOut = s.pinOut := rfl
@[simp] theorem State.setResult_pinPu (s : State) (h t : Byte) : (s.setResult h t).pinPu = s.pinPu := rfl
@[simp] theorem State.setResult_hist (s : State) (h t : Byte) : (s.setResult h t).hist = s.hist := rfl
@[simp] theorem State.setResult_hostWord (s : State) (h t : Byte) : (s.setResult h t).hostWord = s.hostWord := rfl
@[simp] theorem State.setResult_inp (s : State) (h t : Byte) : (s.setResult h t).inp = s.inp := rfl
@[simp] theorem State.setResult_env (s : State) (h t : Byte) : (s.setResult h t).env = s.env := rfl
@[simp] theorem State.setResult_fresh (s : State) (h t : Byte) : (s.setResult h t).fresh = s.fresh := rfl

/-! ## setInited -/

@[simp] theorem State.setInited_st (s : State) : (s.setInited).st = s.st := rfl
@[simp] theorem State.setInited_att (s : State) : (s.setInited).att = s.att := rfl
@[simp] theorem State.setInited_i (s : State) : (s.setInited).i = s.i := rfl
@[simp] theorem State.setInited_hi (s : State) : (s.setInited).hi = s.hi := rfl
@[simp] theorem State.setInited_t0 (s : State) : (s.setInited).t0 = s.t0 := rfl
@[simp] theorem State.setInited_tr (s : State) : (s.setInited).tr = s.tr := rfl
@[simp] theorem State.setInited_dur (s : State) : (s.setInited).dur = s.dur := rfl
@[simp] theorem State.setInited_fb (s : State) : (s.setInited).fb = s.fb := rfl
@[simp] theorem State.setInited_code (s : State) : (s.setInited).code = s.code := rfl
@[simp] theorem State.setInited_hum (s : State) : (s.setInited).hum = s.hum := rfl
@[simp] theorem State.setInited_temp (s : State) : (s.setInited).temp = s.temp := rfl
@[simp] theorem State.setInited_rvalid (s : State) : (s.setInited).rvalid = s.rvalid := rfl
@[simp] theorem State.setInited_inited (s : State) : (s.setInited).inited = true := rfl
@[simp] theorem State.setInited_pinDir (s : State) : (s.setInited).pinDir = s.pinDir := rfl
@[simp] theorem State.setInited_pinOut (s : State) : (s.setInited).pinOut = s.pinOut := rfl
@[simp] theorem State.setInited_pinPu (s : State) : (s.setInited).pinPu = s.pinPu := rfl
@[simp] theorem State.setInited_hist (s : State) : (s.setInited).hist = s.hist := rfl
@[simp] theorem State.setInited_hostWord (s : State) : (s.setInited).hostWord = s.hostWord := rfl
@[simp] theorem State.setInited_inp (s : State) : (s.setInited).inp = s.inp := rfl
@[simp] theorem State.setInited_env (s : State) : (s.setInited).env = s.env := rfl
@[simp] theorem State.setInited_fresh (s : State) : (s.setInited).fresh = s.fresh := rfl

/-! ## setHostWord -/

@[simp] theorem State.setHostWord_st (s : State) (w : HostWord) (n : Nat) : (s.setHostWord w n).st = s.st := rfl
@[simp] theorem State.setHostWord_att (s : State) (w : HostWord) (n : Nat) : (s.setHostWord w n).att = s.att := rfl
@[simp] theorem State.setHostWord_i (s : State) (w : HostWord) (n : Nat) : (s.setHostWord w n).i = s.i := rfl
@[simp] theorem State.setHostWord_hi (s : State) (w : HostWord) (n : Nat) : (s.setHostWord w n).hi = s.hi := rfl
@[simp] theorem State.setHostWord_t0 (s : State) (w : HostWord) (n : Nat) : (s.setHostWord w n).t0 = s.t0 := rfl
@[simp] theorem State.setHostWord_tr (s : State) (w : HostWord) (n : Nat) : (s.setHostWord w n).tr = s.tr := rfl
@[simp] theorem State.setHostWord_dur (s : State) (w : HostWord) (n : Nat) : (s.setHostWord w n).dur = s.dur := rfl
@[simp] theorem State.setHostWord_fb (s : State) (w : HostWord) (n : Nat) : (s.setHostWord w n).fb = s.fb := rfl
@[simp] theorem State.setHostWord_code (s : State) (w : HostWord) (n : Nat) : (s.setHostWord w n).code = s.code := rfl
@[simp] theorem State.setHostWord_hum (s : State) (w : HostWord) (n : Nat) : (s.setHostWord w n).hum = s.hum := rfl
@[simp] theorem State.setHostWord_temp (s : State) (w : HostWord) (n : Nat) : (s.setHostWord w n).temp = s.temp := rfl
@[simp] theorem State.setHostWord_rvalid (s : State) (w : HostWord) (n : Nat) : (s.setHostWord w n).rvalid = s.rvalid := rfl
@[simp] theorem State.setHostWord_inited (s : State) (w : HostWord) (n : Nat) : (s.setHostWord w n).inited = s.inited := rfl
@[simp] theorem State.setHostWord_pinDir (s : State) (w : HostWord) (n : Nat) : (s.setHostWord w n).pinDir = s.pinDir := rfl
@[simp] theorem State.setHostWord_pinOut (s : State) (w : HostWord) (n : Nat) : (s.setHostWord w n).pinOut = s.pinOut := rfl
@[simp] theorem State.setHostWord_pinPu (s : State) (w : HostWord) (n : Nat) : (s.setHostWord w n).pinPu = s.pinPu := rfl
@[simp] theorem State.setHostWord_hist (s : State) (w : HostWord) (n : Nat) : (s.setHostWord w n).hist = s.hist := rfl
@[simp] theorem State.setHostWord_hostWord (s : State) (w : HostWord) (n : Nat) : (s.setHostWord w n).hostWord = some w := rfl
@[simp] theorem State.setHostWord_inp (s : State) (w : HostWord) (n : Nat) : (s.setHostWord w n).inp = s.inp := rfl
@[simp] theorem State.setHostWord_env (s : State) (w : HostWord) (n : Nat) : (s.setHostWord w n).env = s.env := rfl
@[simp] theorem State.setHostWord_fresh (s : State) (w : HostWord) (n : Nat) : (s.setHostWord w n).fresh = s.fresh + n := rfl

/-! ## setDir -/

@[simp] theorem State.setDir_st (s : State) (d : Dir) : (s.setDir d).st = s.st := rfl
@[simp] theorem State.setDir_att (s : State) (d : Dir) : (s.setDir d).att = s.att := rfl
@[simp] theorem State.setDir_i (s : State) (d : Dir) : (s.setDir d).i = s.i := rfl
@[simp] theorem State.setDir_hi (s : State) (d : Dir) : (s.setDir d).hi = s.hi := rfl
@[simp] theorem State.setDir_t0 (s : State) (d : Dir) : (s.setDir d).t0 = s.t0 := rfl
@[simp] theorem State.setDir_tr (s : State) (d : Dir) : (s.setDir d).tr = s.tr := rfl
@[simp] theorem State.setDir_dur (s : State) (d : Dir) : (s.setDir d).dur = s.dur := rfl
@[simp] theorem State.setDir_fb (s : State) (d : Dir) : (s.setDir d).fb = s.fb := rfl
@[simp] theorem State.setDir_code (s : State) (d : Dir) : (s.setDir d).code = s.code := rfl
@[simp] theorem State.setDir_hum (s : State) (d : Dir) : (s.setDir d).hum = s.hum := rfl
@[simp] theorem State.setDir_temp (s : State) (d : Dir) : (s.setDir d).temp = s.temp := rfl
@[simp] theorem State.setDir_rvalid (s : State) (d : Dir) : (s.setDir d).rvalid = s.rvalid := rfl
@[simp] theorem State.setDir_inited (s : State) (d : Dir) : (s.setDir d).inited = s.inited := rfl
@[simp] theorem State.setDir_pinDir (s : State) (d : Dir) : (s.setDir d).pinDir = d := rfl
@[simp] theorem State.setDir_pinOut (s : State) (d : Dir) : (s.setDir d).pinOut = s.pinOut := rfl
@[simp] theorem State.setDir_pinPu (s : State) (d : Dir) : (s.setDir d).pinPu = s.pinPu := rfl
@[simp] theorem State.setDir_hist (s : State) (d : Dir) : (s.setDir d).hist = s.hist ++ [PinEvent.mk (.setDir d) s.inp.now] := rfl
@[simp] theorem State.setDir_hostWord (s : State) (d : Dir) : (s.setDir d).hostWord = s.hostWord := rfl
@[simp] theorem State.setDir_inp (s : State) (d : Dir) : (s.setDir d).inp = s.inp := rfl
@[simp] theorem State.setDir_env (s : State) (d : Dir) : (s.setDir d).env = s.env := rfl
@[simp] theorem State.setDir_fresh (s : State) (d : Dir) : (s.setDir d).fresh = s.fresh := rfl

/-! ## setLevel -/

@[simp] theorem State.setLevel_st (s : State) (l : Level) : (s.setLevel l).st = s.st := rfl
@[simp] theorem State.setLevel_att (s : State) (l : Level) : (s.setLevel l).att = s.att := rfl
@[simp] theorem State.setLevel_i (s : State) (l : Level) : (s.setLevel l).i = s.i := rfl
@[simp] theorem State.setLevel_hi (s : State) (l : Level) : (s.setLevel l).hi = s.hi := rfl
@[simp] theorem State.setLevel_t0 (s : State) (l : Level) : (s.setLevel l).t0 = s.t0 := rfl
@[simp] theorem State.setLevel_tr (s : State) (l : Level) : (s.setLevel l).tr = s.tr := rfl
@[simp] theorem State.setLevel_dur (s : State) (l : Level) : (s.setLevel l).dur = s.dur := rfl
@[simp] theorem State.setLevel_fb (s : State) (l : Level) : (s.setLevel l).fb = s.fb := rfl
@[simp] theorem State.setLevel_code (s : State) (l : Level) : (s.setLevel l).code = s.code := rfl
@[simp] theorem State.setLevel_hum (s : State) (l : Level) : (s.setLevel l).hum = s.hum := rfl
@[simp] theorem State.setLevel_temp (s : State) (l : Level) : (s.setLevel l).temp = s.temp := rfl
@[simp] theorem State.setLevel_rvalid (s : State) (l : Level) : (s.setLevel l).rvalid = s.rvalid := rfl
@[simp] theorem State.setLevel_inited (s : State) (l : Level) : (s.setLevel l).inited = s.inited := rfl
@[simp] theorem State.setLevel_pinDir (s : State) (l : Level) : (s.setLevel l).pinDir = s.pinDir := rfl
@[simp] theorem State.setLevel_pinOut (s : State) (l : Level) : (s.setLevel l).pinOut = l := rfl
@[simp] theorem State.setLevel_pinPu (s : State) (l : Level) : (s.setLevel l).pinPu = s.pinPu := rfl
@[simp] theorem State.setLevel_hist (s : State) (l : Level) : (s.setLevel l).hist = s.hist ++ [PinEvent.mk (.setLevel l) s.inp.now] := rfl
@[simp] theorem State.setLevel_hostWord (s : State) (l : Level) : (s.setLevel l).hostWord = s.hostWord := rfl
@[simp] theorem State.setLevel_inp (s : State) (l : Level) : (s.setLevel l).inp = s.inp := rfl
@[simp] theorem State.setLevel_env (s : State) (l : Level) : (s.setLevel l).env = s.env := rfl
@[simp] theorem State.setLevel_fresh (s : State) (l : Level) : (s.setLevel l).fresh = s.fresh := rfl

/-! ## pullUp -/

@[simp] theorem State.pullUp_st (s : State) (b : Bool) : (s.pullUp b).st = s.st := rfl
@[simp] theorem State.pullUp_att (s : State) (b : Bool) : (s.pullUp b).att = s.att := rfl
@[simp] theorem State.pullUp_i (s : State) (b : Bool) : (s.pullUp b).i = s.i := rfl
@[simp] theorem State.pullUp_hi (s : State) (b : Bool) : (s.pullUp b).hi = s.hi := rfl
@[simp] theorem State.pullUp_t0 (s : State) (b : Bool) : (s.pullUp b).t0 = s.t0 := rfl
@[simp] theorem State.pullUp_tr (s : State) (b : Bool) : (s.pullUp b).tr = s.tr := rfl
@[simp] theorem State.pullUp_dur (s : State) (b : Bool) : (s.pullUp b).dur = s.dur := rfl
@[simp] theorem State.pullUp_fb (s : State) (b : Bool) : (s.pullUp b).fb = s.fb := rfl
@[simp] theorem State.pullUp_code (s : State) (b : Bool) : (s.pullUp b).code = s.code := rfl
@[simp] theorem State.pullUp_hum (s : State) (b : Bool) : (s.pullUp b).hum = s.hum := rfl
@[simp] theorem State.pullUp_temp (s : State) (b : Bool) : (s.pullUp b).temp = s.temp := rfl
@[simp] theorem State.pullUp_rvalid (s : State) (b : Bool) : (s.pullUp b).rvalid = s.rvalid := rfl
@[simp] theorem State.pullUp_inited (s : State) (b : Bool) : (s.pullUp b).inited = s.inited := rfl
@[simp] theorem State.pullUp_pinDir (s : State) (b : Bool) : (s.pullUp b).pinDir = s.pinDir := rfl
@[simp] theorem State.pullUp_pinOut (s : State) (b : Bool) : (s.pullUp b).pinOut = s.pinOut := rfl
@[simp] theorem State.pullUp_pinPu (s : State) (b : Bool) : (s.pullUp b).pinPu = b := rfl
@[simp] theorem State.pullUp_hist (s : State) (b : Bool) : (s.pullUp b).hist = s.hist ++ [PinEvent.mk (.pullUp b) s.inp.now] := rfl
@[simp] theorem State.pullUp_hostWord (s : State) (b : Bool) : (s.pullUp b).hostWord = s.hostWord := rfl
@[simp] theorem State.pullUp_inp (s : State) (b : Bool) : (s.pullUp b).inp = s.inp := rfl
@[simp] theorem State.pullUp_env (s : State) (b : Bool) : (s.pullUp b).env = s.env := rfl
@[simp] theorem State.pullUp_fresh (s : State) (b : Bool) : (s.pullUp b).fresh = s.fresh := rfl

/-! ## readLine -/

@[simp] theorem State.readLine_st (s : State) : (s.readLine).st = s.st := rfl
@[simp] theorem State.readLine_att (s : State) : (s.readLine).att = s.att := rfl
@[simp] theorem State.readLine_i (s : State) : (s.readLine).i = s.i := rfl
@[simp] theorem State.readLine_hi (s : State) : (s.readLine).hi = s.hi := rfl
@[simp] theorem State.readLine_t0 (s : State) : (s.readLine).t0 = s.t0 := rfl
@[simp] theorem State.readLine_tr (s : State) : (s.readLine).tr = s.tr := rfl
@[simp] theorem State.readLine_dur (s : State) : (s.readLine).dur = s.dur := rfl
@[simp] theorem State.readLine_fb (s : State) : (s.readLine).fb = s.fb := rfl
@[simp] theorem State.readLine_code (s : State) : (s.readLine).code = s.code := rfl
@[simp] theorem State.readLine_hum (s : State) : (s.readLine).hum = s.hum := rfl
@[simp] theorem State.readLine_temp (s : State) : (s.readLine).temp = s.temp := rfl
@[simp] theorem State.readLine_rvalid (s : State) : (s.readLine).rvalid = s.rvalid := rfl
@[simp] theorem State.readLine_inited (s : State) : (s.readLine).inited = s.inited := rfl
@[simp] theorem State.readLine_pinDir (s : State) : (s.readLine).pinDir = s.pinDir := rfl
@[simp] theorem State.readLine_pinOut (s : State) : (s.readLine).pinOut = s.pinOut := rfl
@[simp] theorem State.readLine_pinPu (s : State) : (s.readLine).pinPu = s.pinPu := rfl
@[simp] theorem State.readLine_hist (s : State) : (s.readLine).hist = s.hist ++ [PinEvent.mk (.readLine s.inp.lvl) s.inp.now] := rfl
@[simp] theorem State.readLine_hostWord (s : State) : (s.readLine).hostWord = s.hostWord := rfl
@[simp] theorem State.readLine_inp (s : State) : (s.readLine).inp = s.inp := rfl
@[simp] theorem State.readLine_env (s : State) : (s.readLine).env = s.env := rfl
@[simp] theorem State.readLine_fresh (s : State) : (s.readLine).fresh = s.fresh := rfl

/-! ## The next step's inputs -/

@[simp] theorem present_st (s : State) : (present s).st = s.st := by unfold present; split <;> rfl
@[simp] theorem present_att (s : State) : (present s).att = s.att := by unfold present; split <;> rfl
@[simp] theorem present_i (s : State) : (present s).i = s.i := by unfold present; split <;> rfl
@[simp] theorem present_hi (s : State) : (present s).hi = s.hi := by unfold present; split <;> rfl
@[simp] theorem present_t0 (s : State) : (present s).t0 = s.t0 := by unfold present; split <;> rfl
@[simp] theorem present_tr (s : State) : (present s).tr = s.tr := by unfold present; split <;> rfl
@[simp] theorem present_dur (s : State) : (present s).dur = s.dur := by unfold present; split <;> rfl
@[simp] theorem present_fb (s : State) : (present s).fb = s.fb := by unfold present; split <;> rfl
@[simp] theorem present_code (s : State) : (present s).code = s.code := by unfold present; split <;> rfl
@[simp] theorem present_hum (s : State) : (present s).hum = s.hum := by unfold present; split <;> rfl
@[simp] theorem present_temp (s : State) : (present s).temp = s.temp := by unfold present; split <;> rfl
@[simp] theorem present_rvalid (s : State) : (present s).rvalid = s.rvalid := by unfold present; split <;> rfl
@[simp] theorem present_inited (s : State) : (present s).inited = s.inited := by unfold present; split <;> rfl
@[simp] theorem present_pinDir (s : State) : (present s).pinDir = s.pinDir := by unfold present; split <;> rfl
@[simp] theorem present_pinOut (s : State) : (present s).pinOut = s.pinOut := by unfold present; split <;> rfl
@[simp] theorem present_pinPu (s : State) : (present s).pinPu = s.pinPu := by unfold present; split <;> rfl
@[simp] theorem present_hist (s : State) : (present s).hist = s.hist := by unfold present; split <;> rfl
@[simp] theorem present_hostWord (s : State) : (present s).hostWord = s.hostWord := by unfold present; split <;> rfl

theorem present_of_nil (s : State) (h : s.env = []) :
    present s = { s with inp := Config.freeInput s.fresh, fresh := s.fresh + 1 } := by simp [present, h]

theorem present_of_cons (s : State) (e : Input) (rest : List Input) (h : s.env = e :: rest) :
    present s = { s with inp := e, env := rest } := by simp [present, h]

/-! ## Reset -/

@[simp] theorem doReset_st (s : State) : (doReset s).st = .idle := rfl
@[simp] theorem doReset_att (s : State) : (doReset s).att = 0#1 := rfl
@[simp] theorem doReset_i (s : State) : (doReset s).i = 0#6 := rfl
@[simp] theorem doReset_hi (s : State) : (doReset s).hi = false := rfl
@[simp] theorem doReset_t0 (s : State) : (doReset s).t0 = 0#64 := rfl
@[simp] theorem doReset_tr (s : State) : (doReset s).tr = 0#64 := rfl
@[simp] theorem doReset_dur (s : State) : (doReset s).dur = 0#64 := rfl
@[simp] theorem doReset_fb (s : State) : (doReset s).fb = [] := rfl
@[simp] theorem doReset_code (s : State) : (doReset s).code = .ok := rfl
@[simp] theorem doReset_hum (s : State) : (doReset s).hum = none := rfl
@[simp] theorem doReset_temp (s : State) : (doReset s).temp = none := rfl
@[simp] theorem doReset_rvalid (s : State) : (doReset s).rvalid = false := rfl
@[simp] theorem doReset_inited (s : State) : (doReset s).inited = false := rfl
@[simp] theorem doReset_pinDir (s : State) : (doReset s).pinDir = .input := rfl
@[simp] theorem doReset_pinOut (s : State) : (doReset s).pinOut = .high := rfl
@[simp] theorem doReset_pinPu (s : State) : (doReset s).pinPu = false := rfl
@[simp] theorem doReset_hist (s : State) : (doReset s).hist = [] := rfl
@[simp] theorem doReset_hostWord (s : State) : (doReset s).hostWord = s.hostWord := rfl
@[simp] theorem doReset_inp (s : State) : (doReset s).inp = s.inp := rfl
@[simp] theorem doReset_env (s : State) : (doReset s).env = s.env := rfl
@[simp] theorem doReset_fresh (s : State) : (doReset s).fresh = s.fresh := rfl

end Sys2Proof.Machine
end

