-- ==== Sys2Proof/Laws/Ops.lean ====
section
/-! SUPPORT. One lemma per shared operation that says everything it can do. -/

namespace Sys2Proof.Machine

open Sys2Proof

/-! ## The timing primitives -/

theorem delayOver_iff (d : Nat) (s : State) : delayOver d s = true ↔ d ≤ s.waited := by simp [delayOver]

theorem waitLevel_cases (target : Level) (limit : Nat) (s : State) :
    (waitLevel target limit s = .ok ∧ s.inp.lvl = target) ∨
    (waitLevel target limit s = .timeout ∧ s.inp.lvl ≠ target ∧ limit < s.waited) ∨
    (waitLevel target limit s = .stay ∧ s.inp.lvl ≠ target ∧ s.waited ≤ limit) := by
  by_cases h : s.inp.lvl = target
  · exact .inl ⟨by simp [waitLevel, h], h⟩
  · by_cases ht : limit < s.waited
    · exact .inr (.inl ⟨by simp [waitLevel, h, timedOut, ht], h, ht⟩)
    · exact .inr (.inr ⟨by simp [waitLevel, h, timedOut, ht], h, by omega⟩)

theorem measureHigh_cases (limit : Nat) (s : State) :
    (measureHigh limit s = .rise ∧ s.hi = false ∧ s.inp.lvl = .high) ∨
    (measureHigh limit s = .fall ∧ s.hi = true ∧ s.inp.lvl = .low) ∨
    (measureHigh limit s = .timeout ∧ (s.hi = true ↔ s.inp.lvl = .high) ∧ limit < s.waited) ∨
    (measureHigh limit s = .stay ∧ (s.hi = true ↔ s.inp.lvl = .high) ∧ s.waited ≤ limit) := by
  by_cases ht : limit < s.waited <;> rcases hh : s.hi with _ | _ <;> rcases hl : s.inp.lvl with _ | _ <;>
    simp [measureHigh, timedOut, hh, hl, ht] <;> omega

/-! ## The procedures -/

theorem hsFail_first (e : ErrorKind) (s : State) (h : s.att = 0#1) :
    hsFail e s = ((cleanup s).setAtt 1#1).enter .retryWait := by
  simp [hsFail, h]

theorem hsFail_last (e : ErrorKind) (s : State) (h : s.att ≠ 0#1) : hsFail e s = fail e (cleanup s) := by
  have : s.att = 1#1 := by
    have h2 := s.att.isLt
    apply BitVec.eq_of_toNat_eq
    have h0 : s.att.toNat ≠ 0 := fun hc => h (BitVec.eq_of_toNat_eq (by simpa using hc))
    simp
    omega
  simp [hsFail, this]

theorem nextBit_last (s : State) (h : s.i = 39#6) : nextBit s = (cleanup s).goto .check := by simp [nextBit, h]

theorem nextBit_more (s : State) (h : s.i ≠ 39#6) : nextBit s = (s.setIndex (s.i + 1#6)).enter .bitLow := by
  have hn : ¬ s.i.toNat = Config.nBits - 1 := fun hc => h (BitVec.eq_of_toNat_eq hc)
  simp only [nextBit, hn, if_false]

theorem storeBit_cases (b : Bool) (s : State) :
    (b = false ∧ storeBit b s = .next s) ∨
    (b = true ∧ slotByte s.i < 5 ∧ storeBit b s =
      .next (s.setFb (Memory.write s.fb (slotByte s.i) (s.byteAt (slotByte s.i) ||| slotMask s.i)))) ∨
    (b = true ∧ 5 ≤ slotByte s.i ∧ storeBit b s = .fault .frameBufferAddress) := by
  cases b with
  | false => exact .inl ⟨rfl, rfl⟩
  | true =>
    by_cases h : slotByte s.i < 5
    · exact .inr (.inl ⟨rfl, h, by simp [storeBit, h]⟩)
    · exact .inr (.inr ⟨rfl, by omega, by simp [storeBit, h]⟩)

/-- The checksum test in whole numbers (R109, R110). -/
theorem accept_iff (h f t g c : Byte) :
    accept h f t g c = true ↔ c.toNat = (h.toNat + f.toNat + t.toNat + g.toNat) % 256 := by
  have e : (h + f + t + g).toNat = (h.toNat + f.toNat + t.toNat + g.toNat) % 256 := by
    simp [BitVec.toNat_add]
  rw [accept, checksum, decide_eq_true_eq, ← e]
  exact BitVec.toNat_inj.symm

/-- The start of the wait, read back in microseconds: the modular difference of R77. -/
theorem waited_eq (s : State) : s.waited = (s.inp.now - s.t0).toNat := rfl

theorem validate_accept (s : State)
    (h : accept (s.byteAt 0) (s.byteAt 1) (s.byteAt 2) (s.byteAt 3) (s.byteAt 4) = true) :
    validate s = succeed (s.setResult (s.byteAt 0) (s.byteAt 2)) := by simp [validate, h]

theorem validate_reject (s : State)
    (h : accept (s.byteAt 0) (s.byteAt 1) (s.byteAt 2) (s.byteAt 3) (s.byteAt 4) = false) :
    validate s = fail .checksumMismatch s := by simp [validate, h]

/-! ## Commands and the step -/

theorem whenReady_ready (o : Host.Outcome State Fault Refusal) (s : State) (h : s.busy = false) :
    whenReady o s = o := by simp [whenReady, h]

theorem whenReady_busy (o : Host.Outcome State Fault Refusal) (s : State) (h : s.busy = true) :
    whenReady o s = .next s := by simp [whenReady, h]

/-- An absent command is nothing. -/
theorem acceptCommand_none (s : State) (h : s.inp.cmd = none) : acceptCommand s = .next s := by
  simp [acceptCommand, h]

/-- A present command is accepted with its own meaning. -/
theorem acceptCommand_some (s : State) (w : CmdWord) (h : s.inp.cmd = some w) :
    acceptCommand s = exec (decodeCmd w) s := by
  have hop : cmdOp w = 0#2 ∨ cmdOp w = 1#2 ∨ cmdOp w = 2#2 ∨ cmdOp w = 3#2 := by
    generalize cmdOp w = o
    revert o
    decide
  rcases hop with ho | ho | ho | ho <;> cases hr : cmdRef w <;> simp [acceptCommand, decodeCmd, h, ho, hr, exec]

/-- A host access either is refused or leaves all but the word the host holds. -/
theorem hostPort_cases (s : State) :
    hostPort s = .refused .outsidePortInterface ∨ hostPort s = .next s ∨
    ∃ w n, hostPort s = .next (s.setHostWord w n) := by
  unfold hostPort
  split
  · exact .inr (.inl rfl)
  · split_ifs
    · exact .inr (.inr ⟨_, _, rfl⟩)
    · exact .inr (.inr ⟨_, _, rfl⟩)
    · exact .inr (.inr ⟨_, _, rfl⟩)
    · exact .inl rfl
  · exact .inl rfl

/-- A step that answers a next state is a host access, the block's own step, and the next step's inputs. -/
theorem step_next_iff (s t : State) : step s = .next t ↔
    ∃ s1 u, hostPort s = .next s1 ∧ blockStep s1 = .next u ∧ t = present u := by
  unfold step andThen thenPresent
  cases hp : hostPort s with
  | fault r => simp
  | refused r => simp
  | next s1 =>
    cases hb : blockStep s1 with
    | next u => simp [hb, eq_comm]
    | fault r => simp [hb]
    | refused r => simp [hb]

/-- With no host access and no reset, a step is the operation its state codes, then the next step's inputs. -/
theorem step_eq_exec (s : State) (hr : s.inp.rst = false) (hh : s.inp.host = none) :
    step s = thenPresent (exec (stInstr s.st) s) := by
  simp [step, hostPort, hh, andThen, blockStep, hr, fetch]

theorem decodeSt_encodeSt (state : St) : decodeSt (encodeSt state) = some state := by
  cases state <;> rfl

end Sys2Proof.Machine
end

