-- ==== Sys2Proof/Laws/Instr.lean ====
section
/-! SUPPORT. For each operation that does something, one lemma that says everything it can do: if it answers
next `t`, then `t` is one of these, with what the state and the inputs were. -/

namespace Sys2Proof.Machine

open Sys2Proof

theorem att_cases (a : BitVec 1) : a = 0#1 ∨ a = 1#1 := by revert a; decide

theorem cmdWord_cases (w : CmdWord) :
    w = 0#3 ∨ w = 1#3 ∨ w = 2#3 ∨ w = 3#3 ∨ w = 4#3 ∨ w = 5#3 ∨ w = 6#3 ∨ w = 7#3 := by revert w; decide

/-- A command that is accepted at rest, or not. -/
theorem whenReady_cases {o : Host.Outcome State Fault Refusal} {s t : State} (h : whenReady o s = .next t) :
    t = s ∨ (s.busy = false ∧ o = .next t) := by
  unfold whenReady at h
  split_ifs at h with hb
  · cases h; exact .inl rfl
  · exact .inr ⟨by simpa using hb, h⟩

/-- What INIT leaves (R120). -/
def afterInit (s : State) : State := ((((s.setDir .output).setLevel .high).setInited).setCode .ok).goto .idle

theorem execInit_cases {s t : State} (h : execInit s = .next t) :
    t = s ∨ (s.busy = false ∧ t = afterInit s) := by
  rcases whenReady_cases h with h | ⟨hb, h⟩
  · exact .inl h
  · cases h; exact .inr ⟨hb, rfl⟩

theorem execInitNull_cases {s t : State} (h : execInitNull s = .next t) :
    t = s ∨ (s.busy = false ∧ t = fail .nullReference s) := by
  rcases whenReady_cases h with h | ⟨hb, h⟩
  · exact .inl h
  · cases h; exact .inr ⟨hb, rfl⟩

theorem execReadNull_cases {s t : State} (h : execReadNull s = .next t) :
    t = s ∨ (s.busy = false ∧ t = fail .nullReference s) := by
  rcases whenReady_cases h with h | ⟨hb, h⟩
  · exact .inl h
  · cases h; exact .inr ⟨hb, rfl⟩

theorem execRead_cases {s t : State} (h : execRead s = .next t) :
    t = s ∨ (s.busy = false ∧ s.inited = true ∧ t = enterStartLow (s.setAtt 0#1)) := by
  rcases whenReady_cases h with h | ⟨hb, h⟩
  · exact .inl h
  · split_ifs at h with hi
    cases h
    exact .inr ⟨hb, hi, rfl⟩

/-- Everything a rest state can do (R117). -/
theorem acceptCommand_cases {s t : State} (h : acceptCommand s = .next t) :
    t = s ∨ (s.busy = false ∧ t = fail .nullReference s) ∨
    (s.inp.cmd = some 0b101#3 ∧ s.busy = false ∧ t = afterInit s) ∨
    (s.busy = false ∧ s.inited = true ∧ t = enterStartLow (s.setAtt 0#1)) := by
  cases hc : s.inp.cmd with
  | none => rw [acceptCommand_none s hc] at h; cases h; exact .inl rfl
  | some w =>
    rw [acceptCommand_some s w hc] at h
    rcases cmdWord_cases w with rfl | rfl | rfl | rfl | rfl | rfl | rfl | rfl
    · cases h; exact .inl rfl
    · rcases execInitNull_cases h with h | h
      · exact .inl h
      · exact .inr (.inl h)
    · rcases execReadNull_cases h with h | h
      · exact .inl h
      · exact .inr (.inl h)
    · cases h; exact .inl rfl
    · cases h; exact .inl rfl
    · rcases execInit_cases h with h | h
      · exact .inl h
      · exact .inr (.inr (.inl ⟨rfl, h⟩))
    · rcases execRead_cases h with h | h
      · exact .inl h
      · exact .inr (.inr (.inr h))
    · cases h; exact .inl rfl

theorem execStStartLow_cases {s t : State} (h : execStStartLow s = .next t) :
    (20000 ≤ s.waited ∧ t = enterStartRel s) ∨ (s.waited < 20000 ∧ t = s) := by
  unfold execStStartLow delayOver at h
  by_cases hw : 20000 ≤ s.waited
  · simp only [hw, decide_true, if_true] at h; cases h; exact .inl ⟨hw, rfl⟩
  · simp only [hw, decide_false] at h; cases h; exact .inr ⟨by omega, rfl⟩

theorem execStStartRel_cases {s t : State} (h : execStStartRel s = .next t) :
    (30 ≤ s.waited ∧ t = (startListening s).enter .ackLow) ∨ (s.waited < 30 ∧ t = s) := by
  unfold execStStartRel delayOver at h
  by_cases hw : 30 ≤ s.waited
  · simp only [hw, decide_true, if_true] at h; cases h; exact .inl ⟨hw, rfl⟩
  · simp only [hw, decide_false] at h; cases h; exact .inr ⟨by omega, rfl⟩

theorem execStRetryWait_cases {s t : State} (h : execStRetryWait s = .next t) :
    (10000 ≤ s.waited ∧ t = enterStartLow s) ∨ (s.waited < 10000 ∧ t = s) := by
  unfold execStRetryWait delayOver at h
  by_cases hw : 10000 ≤ s.waited
  · simp only [hw, decide_true, if_true] at h; cases h; exact .inl ⟨hw, rfl⟩
  · simp only [hw, decide_false] at h; cases h; exact .inr ⟨by omega, rfl⟩

/-- HS_FAIL, both ways (R92). -/
theorem hsFail_cases (e : ErrorKind) (s : State) :
    (s.att = 0#1 ∧ hsFail e s = ((cleanup s).setAtt 1#1).enter .retryWait) ∨
    (s.att = 1#1 ∧ hsFail e s = fail e (cleanup s)) := by
  rcases att_cases s.att with h | h
  · exact .inl ⟨h, hsFail_first e s h⟩
  · exact .inr ⟨h, hsFail_last e s (by rw [h]; decide)⟩

theorem execStAckLow_cases {s t : State} (h : execStAckLow s = .next t) :
    (s.inp.lvl = .low ∧ t = s.readLine.enter .ackHigh) ∨
    (s.att = 0#1 ∧ 200 < s.waited ∧ t = ((cleanup s.readLine).setAtt 1#1).enter .retryWait) ∨
    (s.att = 1#1 ∧ 200 < s.waited ∧ t = fail .handshakeTimeoutLow (cleanup s.readLine)) ∨
    (s.waited ≤ 200 ∧ t = s.readLine) := by
  unfold execStAckLow at h
  rcases waitLevel_cases .low 200 s with ⟨hw, hl⟩ | ⟨hw, -, ht⟩ | ⟨hw, -, ht⟩ <;> simp only [hw] at h <;> cases h
  · exact .inl ⟨hl, rfl⟩
  · rcases hsFail_cases .handshakeTimeoutLow s.readLine with ⟨ha, he⟩ | ⟨ha, he⟩
    · exact .inr (.inl ⟨ha, ht, he⟩)
    · exact .inr (.inr (.inl ⟨ha, ht, he⟩))
  · exact .inr (.inr (.inr ⟨ht, rfl⟩))

theorem execStAckHigh_cases {s t : State} (h : execStAckHigh s = .next t) :
    (s.inp.lvl = .high ∧ t = hsOk s.readLine) ∨
    (s.att = 0#1 ∧ 200 < s.waited ∧ t = ((cleanup s.readLine).setAtt 1#1).enter .retryWait) ∨
    (s.att = 1#1 ∧ 200 < s.waited ∧ t = fail .handshakeTimeoutHigh (cleanup s.readLine)) ∨
    (s.waited ≤ 200 ∧ t = s.readLine) := by
  unfold execStAckHigh at h
  rcases waitLevel_cases .high 200 s with ⟨hw, hl⟩ | ⟨hw, -, ht⟩ | ⟨hw, -, ht⟩ <;> simp only [hw] at h <;> cases h
  · exact .inl ⟨hl, rfl⟩
  · rcases hsFail_cases .handshakeTimeoutHigh s.readLine with ⟨ha, he⟩ | ⟨ha, he⟩
    · exact .inr (.inl ⟨ha, ht, he⟩)
    · exact .inr (.inr (.inl ⟨ha, ht, he⟩))
  · exact .inr (.inr (.inr ⟨ht, rfl⟩))

theorem execStBitLow_cases {s t : State} (h : execStBitLow s = .next t) :
    (s.inp.lvl = .low ∧ t = enterMeasHigh s.readLine) ∨
    (100 < s.waited ∧ t = fail .bitStartTimeout (cleanup s.readLine)) ∨
    (s.waited ≤ 100 ∧ t = s.readLine) := by
  unfold execStBitLow at h
  rcases waitLevel_cases .low 100 s with ⟨hw, hl⟩ | ⟨hw, -, ht⟩ | ⟨hw, -, ht⟩ <;> simp only [hw] at h <;> cases h
  · exact .inl ⟨hl, rfl⟩
  · exact .inr (.inl ⟨ht, rfl⟩)
  · exact .inr (.inr ⟨ht, rfl⟩)

/-- The buffer after STORE_BIT of the slot `k` (R101). -/
def storedBit (b : Bool) (k : BitVec 6) (m : Memory) : Memory :=
  if b then Memory.write m (slotByte k) (Memory.read m (slotByte k) ||| slotMask k) else m

theorem storeBit_next {b : Bool} {s t : State} (h : storeBit b s = .next t) :
    t = s.setFb (storedBit b s.i s.fb) ∧ (b = true → slotByte s.i < 5) := by
  rcases storeBit_cases b s with ⟨hb, he⟩ | ⟨hb, hk, he⟩ | ⟨-, -, he⟩ <;> rw [he] at h <;> cases h
  · subst hb; exact ⟨rfl, fun hc => by cases hc⟩
  · subst hb; exact ⟨rfl, fun _ => hk⟩

/-- What a fall poll has written before NEXT_BIT (R99 to R101). -/
def fallStored (s : State) : State :=
  (s.readLine.setDur (elapsed s.inp.now s.tr)).setFb (storedBit (classify (elapsed s.inp.now s.tr)) s.i s.fb)

/-- What a fall poll leaves (R99 to R102). -/
def afterFall (s : State) : State := nextBit (fallStored s)

theorem execStMeasHigh_cases {s t : State} (h : execStMeasHigh s = .next t) :
    (s.hi = false ∧ s.inp.lvl = .high ∧ t = (s.readLine.setHi true).setTr s.inp.now) ∨
    (s.hi = true ∧ s.inp.lvl = .low ∧ t = afterFall s ∧
      (classify (elapsed s.inp.now s.tr) = true → slotByte s.i < 5)) ∨
    ((s.hi = true ↔ s.inp.lvl = .high) ∧ 200 < s.waited ∧ t = fail .highMeasureTimeout (cleanup s.readLine)) ∨
    ((s.hi = true ↔ s.inp.lvl = .high) ∧ s.waited ≤ 200 ∧ t = s.readLine) := by
  unfold execStMeasHigh at h
  rcases measureHigh_cases 200 s with ⟨hw, h1, h2⟩ | ⟨hw, h1, h2⟩ | ⟨hw, h1, h2⟩ | ⟨hw, h1, h2⟩ <;> simp only [hw] at h
  · cases h; exact .inl ⟨h1, h2, rfl⟩
  · unfold fallPoll at h
    cases hs : storeBit (classify (elapsed s.readLine.inp.now s.readLine.tr))
        (s.readLine.setDur (elapsed s.readLine.inp.now s.readLine.tr)) with
    | next u =>
      simp only [hs] at h
      cases h
      obtain ⟨hu, hk⟩ := storeBit_next hs
      exact .inr (.inl ⟨h1, h2, by rw [hu]; rfl, hk⟩)
    | fault r => simp only [hs] at h; cases h
    | refused r => simp only [hs] at h; cases h
  · cases h; exact .inr (.inr (.inl ⟨h1, h2, rfl⟩))
  · cases h; exact .inr (.inr (.inr ⟨h1, h2, rfl⟩))

/-- The fall poll always has a next state when the slot exists, or when nothing is stored. -/
theorem execStMeasHigh_fall (s : State) (h1 : s.hi = true) (h2 : s.inp.lvl = .low)
    (hk : classify (elapsed s.inp.now s.tr) = true → slotByte s.i < 5) :
    execStMeasHigh s = .next (afterFall s) := by
  unfold execStMeasHigh
  have hw : measureHigh 200 s = .fall := by simp [measureHigh, h1, h2]
  simp only [hw, fallPoll]
  rcases storeBit_cases (classify (elapsed s.readLine.inp.now s.readLine.tr))
    (s.readLine.setDur (elapsed s.readLine.inp.now s.readLine.tr)) with ⟨hb, he⟩ | ⟨hb, -, he⟩ | ⟨hb, hc, -⟩
  · rw [he]
    simp only [State.readLine_inp, State.readLine_tr] at hb ⊢
    simp [afterFall, fallStored, hb, storedBit]
    rfl
  · rw [he]
    simp only [State.readLine_inp, State.readLine_tr] at hb ⊢
    simp [afterFall, fallStored, hb, storedBit, State.byteAt]
  · have := hk hb
    simp at hc
    omega

/-- NEXT_BIT, both ways (R102). -/
theorem nextBit_cases (s : State) :
    (s.i = 39#6 ∧ nextBit s = (cleanup s).goto .check) ∨
    (s.i ≠ 39#6 ∧ nextBit s = (s.setIndex (s.i + 1#6)).enter .bitLow) := by
  by_cases h : s.i = 39#6
  · exact .inl ⟨h, nextBit_last s h⟩
  · exact .inr ⟨h, nextBit_more s h⟩

theorem afterFall_cases (s : State) :
    (s.i = 39#6 ∧ afterFall s = (cleanup (fallStored s)).goto .check) ∨
    (s.i ≠ 39#6 ∧ afterFall s = ((fallStored s).setIndex (s.i + 1#6)).enter .bitLow) := nextBit_cases (fallStored s)

/-- The validation, both ways (R109, R111, R112). -/
theorem validate_cases (s : State) :
    (accept (s.byteAt 0) (s.byteAt 1) (s.byteAt 2) (s.byteAt 3) (s.byteAt 4) = true ∧
      validate s = succeed (s.setResult (s.byteAt 0) (s.byteAt 2))) ∨
    (accept (s.byteAt 0) (s.byteAt 1) (s.byteAt 2) (s.byteAt 3) (s.byteAt 4) = false ∧
      validate s = fail .checksumMismatch s) := by
  cases h : accept (s.byteAt 0) (s.byteAt 1) (s.byteAt 2) (s.byteAt 3) (s.byteAt 4) with
  | true => exact .inl ⟨rfl, validate_accept s h⟩
  | false => exact .inr ⟨rfl, validate_reject s h⟩

/-- A busy block at a slot that exists always has a next state (R124). -/
theorem exec_busy_next (s : State) (hb : s.busy = true) (hk : slotByte s.i < 5) :
    ∃ t, exec (stInstr s.st) s = .next t := by
  cases hs : s.st <;> simp [State.busy, stBusy, hs] at hb <;> simp only [stInstr, exec]
  · exact ⟨_, rfl⟩
  · exact ⟨_, rfl⟩
  · unfold execStAckLow; split <;> exact ⟨_, rfl⟩
  · unfold execStAckHigh; split <;> exact ⟨_, rfl⟩
  · exact ⟨_, rfl⟩
  · unfold execStBitLow; split <;> exact ⟨_, rfl⟩
  · rcases measureHigh_cases 200 s with ⟨hw, h1, h2⟩ | ⟨hw, h1, h2⟩ | ⟨hw, h1, h2⟩ | ⟨hw, h1, h2⟩
    · exact ⟨_, by simp only [execStMeasHigh, hw]; rfl⟩
    · exact ⟨_, execStMeasHigh_fall s h1 h2 fun _ => hk⟩
    · exact ⟨_, by simp only [execStMeasHigh, hw]; rfl⟩
    · exact ⟨_, by simp only [execStMeasHigh, hw]; rfl⟩
  · exact ⟨_, rfl⟩

/-! ## Slots -/

theorem slotMask_bit (i : BitVec 6) (k : Nat) (hk : k < 8) :
    (slotMask i).getLsbD k = decide (k = 7 - i.toNat % 8) := by
  simp only [slotMask, slotBit]
  have hlt : i.toNat % 8 < 8 := Nat.mod_lt _ (by decide)
  generalize i.toNat % 8 = m at *
  interval_cases m <;> interval_cases k <;> decide

theorem slotByte_lt {i : BitVec 6} (hi : i.toNat ≤ 39) : slotByte i < 5 := by unfold slotByte; omega

end Sys2Proof.Machine
end

