-- ==== Sys2Proof/Laws/PerInstr.lean ====
section
/-! SUPPORT. The statements made of every instruction as syntax, one lemma per constructor. -/

namespace Sys2Proof

/-- Decoding the word an instruction is encoded as gives the instruction back. -/
def Laws.RoundTrip.Statement (i : Instr) : Prop :=
  i.wellFormed = true → decode (encode i).1 (encode i).2 = .ok i

/-! ## The fields of the packed words -/

/-- The lower part of a concatenation. -/
theorem extract_append_low {m n : Nat} (x : BitVec m) (y : BitVec n) : (x ++ y).extractLsb' 0 n = y := by
  apply BitVec.eq_of_getLsbD_eq
  intro k hk
  simp [BitVec.getLsbD_append, hk]

/-- A field above the lower part of a concatenation is a field of the upper part. -/
theorem extract_append_high {m n : Nat} (x : BitVec m) (y : BitVec n) (at_ len : Nat) :
    (x ++ y).extractLsb' (n + at_) len = x.extractLsb' at_ len := by
  apply BitVec.eq_of_getLsbD_eq
  intro k hk
  have h1 : ¬ (n + at_ + k < n) := by omega
  have h2 : n + at_ + k - n = at_ + k := by omega
  simp [BitVec.getLsbD_append, hk, h1, h2]

theorem extract_all {m : Nat} (x : BitVec m) : x.extractLsb' 0 m = x := by
  apply BitVec.eq_of_getLsbD_eq
  intro k hk
  simp [hk]

theorem packFrame_fields (h f t g c : Byte) : decodeFrame (packFrame h f t g c) = .frame h f t g c := by
  have e0 : (h ++ f ++ t ++ g ++ c).extractLsb' 0 8 = c := extract_append_low _ _
  have e1 : (h ++ f ++ t ++ g ++ c).extractLsb' 8 8 = g :=
    (extract_append_high (h ++ f ++ t ++ g) c 0 8).trans (extract_append_low _ _)
  have e2 : (h ++ f ++ t ++ g ++ c).extractLsb' 16 8 = t :=
    (extract_append_high (h ++ f ++ t ++ g) c 8 8).trans
      ((extract_append_high (h ++ f ++ t) g 0 8).trans (extract_append_low _ _))
  have e3 : (h ++ f ++ t ++ g ++ c).extractLsb' 24 8 = f :=
    (extract_append_high (h ++ f ++ t ++ g) c 16 8).trans
      ((extract_append_high (h ++ f ++ t) g 8 8).trans
        ((extract_append_high (h ++ f) t 0 8).trans (extract_append_low _ _)))
  have e4 : (h ++ f ++ t ++ g ++ c).extractLsb' 32 8 = h :=
    (extract_append_high (h ++ f ++ t ++ g) c 24 8).trans
      ((extract_append_high (h ++ f ++ t) g 16 8).trans
        ((extract_append_high (h ++ f) t 8 8).trans
          ((extract_append_high h f 0 8).trans (extract_all h))))
  simp only [decodeFrame, packFrame, e0, e1, e2, e3, e4]

theorem packResult_fields (t h : Byte) : decodeResult (packResult t h) = .result t h := by
  have e0 : (t ++ h).extractLsb' 0 8 = h := extract_append_low _ _
  have e1 : (t ++ h).extractLsb' 8 8 = t := (extract_append_high t h 0 8).trans (extract_all t)
  simp only [decodeResult, packResult, e0, e1]

theorem packPinctl_fields (u o d : Bool) : decodePinctl (packPinctl false u o d) = .ok (.pinctl false u o d) := by
  cases u <;> cases o <;> cases d <;> rfl

/-- The fields of a STATUS word, each at its place (R61). -/
theorem packStatus_parts (a c : BitVec 4) (v n b : Bool) :
    (packStatus a v n b c).extractLsb' 0 4 = c ∧ (packStatus a v n b c).extractLsb' 8 4 = a ∧
    (packStatus a v n b c).extractLsb' 12 4 = 0#4 ∧ (packStatus a v n b c).getLsbD 4 = b ∧
    (packStatus a v n b c).getLsbD 5 = n ∧ (packStatus a v n b c).getLsbD 6 = v ∧
    (packStatus a v n b c).getLsbD 7 = false := by
  have e0 : (packStatus a v n b c).extractLsb' 0 4 = c := extract_append_low _ _
  have e8 : (packStatus a v n b c).extractLsb' 8 4 = a :=
    (extract_append_high (0#4 ++ a ++ 0#1 ++ bit v ++ bit n ++ bit b) c 4 4).trans
      ((extract_append_high (0#4 ++ a ++ 0#1 ++ bit v ++ bit n) (bit b) 3 4).trans
        ((extract_append_high (0#4 ++ a ++ 0#1 ++ bit v) (bit n) 2 4).trans
          ((extract_append_high (0#4 ++ a ++ 0#1) (bit v) 1 4).trans
            ((extract_append_high (0#4 ++ a) 0#1 0 4).trans (extract_append_low _ _)))))
  have e12 : (packStatus a v n b c).extractLsb' 12 4 = 0#4 :=
    (extract_append_high (0#4 ++ a ++ 0#1 ++ bit v ++ bit n ++ bit b) c 8 4).trans
      ((extract_append_high (0#4 ++ a ++ 0#1 ++ bit v ++ bit n) (bit b) 7 4).trans
        ((extract_append_high (0#4 ++ a ++ 0#1 ++ bit v) (bit n) 6 4).trans
          ((extract_append_high (0#4 ++ a ++ 0#1) (bit v) 5 4).trans
            ((extract_append_high (0#4 ++ a) 0#1 4 4).trans
              ((extract_append_high 0#4 a 0 4).trans (extract_all _))))))
  have b4 : (packStatus a v n b c).getLsbD 4 = b := by
    simp only [packStatus, bit, BitVec.getLsbD_append]
    simp
  have b5 : (packStatus a v n b c).getLsbD 5 = n := by
    simp only [packStatus, bit, BitVec.getLsbD_append]
    simp
  have b6 : (packStatus a v n b c).getLsbD 6 = v := by
    simp only [packStatus, bit, BitVec.getLsbD_append]
    simp
  have b7 : (packStatus a v n b c).getLsbD 7 = false := by
    simp only [packStatus, bit, BitVec.getLsbD_append]
    simp
  exact ⟨e0, e8, e12, b4, b5, b6, b7⟩

theorem packStatus_fields (a c : BitVec 4) (v n b : Bool) (ha : a.toNat ≤ 10) (hc : c.toNat ≤ 6) :
    decodeStatus (packStatus a v n b c) = .ok (.status a v n b c) := by
  obtain ⟨e0, e8, e12, b4, b5, b6, b7⟩ := packStatus_parts a c v n b
  have ha' : ¬ 10 < a.toNat := by omega
  have hc' : ¬ 6 < c.toNat := by omega
  simp only [decodeStatus, e0, e8, e12, b4, b5, b6, b7, ha', hc', if_false, ne_eq, not_true_eq_false,
    Bool.false_eq_true, or_self]

/-! ## One lemma per constructor -/

theorem Laws.RoundTrip.nop (ref : Bool) : Laws.RoundTrip.Statement (.nop ref) := by
  intro _; cases ref <;> rfl

theorem Laws.RoundTrip.init : Laws.RoundTrip.Statement .init := fun _ => rfl

theorem Laws.RoundTrip.initNull : Laws.RoundTrip.Statement .initNull := fun _ => rfl

theorem Laws.RoundTrip.read : Laws.RoundTrip.Statement .read := fun _ => rfl

theorem Laws.RoundTrip.readNull : Laws.RoundTrip.Statement .readNull := fun _ => rfl

theorem Laws.RoundTrip.reserved (ref : Bool) : Laws.RoundTrip.Statement (.reserved ref) := by
  intro _; cases ref <;> rfl

theorem Laws.RoundTrip.stIdle : Laws.RoundTrip.Statement .stIdle := fun _ => rfl

theorem Laws.RoundTrip.stStartLow : Laws.RoundTrip.Statement .stStartLow := fun _ => rfl

theorem Laws.RoundTrip.stStartRel : Laws.RoundTrip.Statement .stStartRel := fun _ => rfl

theorem Laws.RoundTrip.stAckLow : Laws.RoundTrip.Statement .stAckLow := fun _ => rfl

theorem Laws.RoundTrip.stAckHigh : Laws.RoundTrip.Statement .stAckHigh := fun _ => rfl

theorem Laws.RoundTrip.stRetryWait : Laws.RoundTrip.Statement .stRetryWait := fun _ => rfl

theorem Laws.RoundTrip.stBitLow : Laws.RoundTrip.Statement .stBitLow := fun _ => rfl

theorem Laws.RoundTrip.stMeasHigh : Laws.RoundTrip.Statement .stMeasHigh := fun _ => rfl

theorem Laws.RoundTrip.stCheck : Laws.RoundTrip.Statement .stCheck := fun _ => rfl

theorem Laws.RoundTrip.stDone : Laws.RoundTrip.Statement .stDone := fun _ => rfl

theorem Laws.RoundTrip.stFailed : Laws.RoundTrip.Statement .stFailed := fun _ => rfl

theorem Laws.RoundTrip.codeOk : Laws.RoundTrip.Statement .codeOk := fun _ => rfl

theorem Laws.RoundTrip.codeNullReference : Laws.RoundTrip.Statement .codeNullReference := fun _ => rfl

theorem Laws.RoundTrip.codeHandshakeTimeoutLow : Laws.RoundTrip.Statement .codeHandshakeTimeoutLow := fun _ => rfl

theorem Laws.RoundTrip.codeHandshakeTimeoutHigh : Laws.RoundTrip.Statement .codeHandshakeTimeoutHigh := fun _ => rfl

theorem Laws.RoundTrip.codeBitStartTimeout : Laws.RoundTrip.Statement .codeBitStartTimeout := fun _ => rfl

theorem Laws.RoundTrip.codeHighMeasureTimeout : Laws.RoundTrip.Statement .codeHighMeasureTimeout := fun _ => rfl

theorem Laws.RoundTrip.codeChecksumMismatch : Laws.RoundTrip.Statement .codeChecksumMismatch := fun _ => rfl

theorem Laws.RoundTrip.codeReservedTimeoutBitSync : Laws.RoundTrip.Statement .codeReservedTimeoutBitSync := fun _ => rfl

theorem Laws.RoundTrip.codeReservedTimeoutHighPulse : Laws.RoundTrip.Statement .codeReservedTimeoutHighPulse := fun _ => rfl

theorem Laws.RoundTrip.frame (h f t g c : Byte) : Laws.RoundTrip.Statement (.frame h f t g c) := by
  intro _
  have hw : ¬ 2 ^ 40 ≤ (packFrame h f t g c).toNat := Nat.not_le.2 (packFrame h f t g c).isLt
  simp only [encode, decode, Channel.width, hw, if_false, BitVec.ofNat_toNat, BitVec.setWidth_eq, packFrame_fields]

theorem Laws.RoundTrip.status (a : BitVec 4) (v n b : Bool) (c : BitVec 4) :
    Laws.RoundTrip.Statement (.status a v n b c) := by
  intro h
  simp only [Instr.wellFormed, Bool.and_eq_true, decide_eq_true_eq] at h
  have hw : ¬ 2 ^ 16 ≤ (packStatus a v n b c).toNat := Nat.not_le.2 (packStatus a v n b c).isLt
  simp only [encode, decode, Channel.width, hw, if_false, BitVec.ofNat_toNat, BitVec.setWidth_eq,
    packStatus_fields a c v n b h.1 h.2]

theorem Laws.RoundTrip.result (t h : Byte) : Laws.RoundTrip.Statement (.result t h) := by
  intro _
  have hw : ¬ 2 ^ 16 ≤ (packResult t h).toNat := Nat.not_le.2 (packResult t h).isLt
  simp only [encode, decode, Channel.width, hw, if_false, BitVec.ofNat_toNat, BitVec.setWidth_eq, packResult_fields]

theorem Laws.RoundTrip.pinctl (q u o d : Bool) : Laws.RoundTrip.Statement (.pinctl q u o d) := by
  intro h
  have hq : q = false := by simpa [Instr.wellFormed] using h
  subst hq
  cases u <;> cases o <;> cases d <;> rfl

end Sys2Proof
end

