-- ==== Sys2Proof/Laws/Runs.lean ====
section
/-! SUPPORT. Laws of bit-slots in a buffer, of the end of a step, and of several steps in a row. -/

namespace Sys2Proof.Machine

open Sys2Proof

/-- STORE_BIT in terms of slots: it sets slot `i` and leaves the others. -/
theorem slotValue_write {m : Memory} (hm : Memory.wf m = true) (i : BitVec 6) (k : Nat) :
    slotValue (Memory.write m (slotByte i) (Memory.read m (slotByte i) ||| slotMask i)) k =
      (decide (k = i.toNat) || slotValue m k) := by
  unfold slotValue
  by_cases hb : k / 8 = slotByte i
  · rw [hb, Memory.read_write_same hm, BitVec.getLsbD_or, slotMask_bit i _ (by omega)]
    have h : decide (7 - k % 8 = 7 - i.toNat % 8) = decide (k = i.toNat) := by
      unfold slotByte at hb
      have : k = 8 * (k / 8) + k % 8 := (Nat.div_add_mod k 8).symm
      have : i.toNat = 8 * (i.toNat / 8) + i.toNat % 8 := (Nat.div_add_mod _ 8).symm
      by_cases hki : k = i.toNat
      · simp [hki]
      · have : ¬ (7 - k % 8 = 7 - i.toNat % 8) := by omega
        simp [hki, this]
    rw [h, Bool.or_comm]
  · rw [Memory.read_write_other hm hb]
    have hne : k ≠ i.toNat := fun hc => hb (by rw [hc]; rfl)
    simp [hne]

theorem slotValue_storedBit {m : Memory} (hm : Memory.wf m = true) (i : BitVec 6) (k : Nat) (b : Bool) :
    slotValue (storedBit b i m) k = ((b && decide (k = i.toNat)) || slotValue m k) := by
  cases b with
  | false => simp [storedBit]
  | true => simp only [storedBit, if_true, Bool.true_and]; exact slotValue_write hm i k

theorem storedBit_wf {m : Memory} (hm : Memory.wf m = true) {i : BitVec 6} (hi : i.toNat ≤ 39) (b : Bool) :
    Memory.wf (storedBit b i m) = true := by
  cases b with
  | false => exact hm
  | true => exact Memory.wf_write hm (slotByte_lt hi) _

/-- The inputs presented are the first of the list. -/
theorem present_cons (s : State) (e : Input) (rest : List Input) (h : s.env = e :: rest) :
    present s = { s with inp := e, env := rest } := by simp [present, h]

/-- Presenting the next inputs changes no register of the block. -/
theorem present_frame (s : State) : ∃ inp env fresh,
    present s = { s with inp := inp, env := env, fresh := fresh } := by
  unfold present
  split
  · exact ⟨_, _, _, rfl⟩
  · exact ⟨_, _, _, rfl⟩

theorem stepsTo_trans {m n : Nat} : ∀ {s u t : State}, stepsTo m s u → stepsTo n u t → stepsTo (m + n) s t := by
  induction m with
  | zero => intro s u t h1 h2; cases h1; simpa using h2
  | succ m ih =>
    intro s u t h1 h2
    obtain ⟨v, hv, h1⟩ := h1
    rw [show m + 1 + n = (m + n) + 1 by omega]
    exact ⟨v, hv, ih h1 h2⟩

/-- Under the progress of time, elapsed time passes every limit, again and again (R83). -/
theorem TimeProgresses.elapsed_passes {e : Nat → Input} {clock : Nat → Nat} (h : TimeProgresses e clock) (t0 : Time)
    {limit : Nat} (hl : limit < 2 ^ 63) (n : Nat) : ∃ m, n ≤ m ∧ limit < ((e m).now - t0).toNat := by
  obtain ⟨p, hp, hmin⟩ : ∃ p, 2 ^ 64 * (clock n + 1) + t0.toNat + limit < clock p ∧
      ∀ q, q < p → clock q ≤ 2 ^ 64 * (clock n + 1) + t0.toNat + limit := by
    classical
    have hex := h.progress (2 ^ 64 * (clock n + 1) + t0.toNat + limit)
    exact ⟨Nat.find hex, Nat.find_spec hex, fun q hq => by have := Nat.find_min hex hq; omega⟩
  have hnp : n < p := by
    by_contra hc
    have := monotone_nat_of_le_succ h.monotone (show p ≤ n by omega)
    omega
  obtain ⟨q, rfl⟩ : ∃ q, p = q + 1 := ⟨p - 1, by omega⟩
  refine ⟨q + 1, by omega, ?_⟩
  have h1 := hmin q (by omega)
  have h2 := h.spacing q
  have h3 := t0.isLt
  rw [h.shown, BitVec.toNat_sub, BitVec.toNat_ofNat]
  omega

theorem waitLimit_lt (st : St) : waitLimit st < 2 ^ 63 := by cases st <;> decide

/-- Without a reset, a step is a host access, the operation its state codes, and the next step's inputs. -/
theorem step_cases {s t : State} (hr : s.inp.rst = false) (h : step s = .next t) :
    ∃ s1 u, (s1 = s ∨ ∃ w n, s1 = s.setHostWord w n) ∧ exec (stInstr s.st) s1 = .next u ∧ t = present u := by
  obtain ⟨s1, u, hp, hb, ht⟩ := (step_next_iff s t).1 h
  have h1 : s1 = s ∨ ∃ w n, s1 = s.setHostWord w n := by
    rcases hostPort_cases s with hc | hc | ⟨w, n, hc⟩ <;> rw [hc] at hp <;> cases hp
    · exact .inl rfl
    · exact .inr ⟨w, n, rfl⟩
  refine ⟨s1, u, h1, ?_, ht⟩
  have hst : s1.inp.rst = false ∧ s1.st = s.st := by
    rcases h1 with rfl | ⟨w, n, rfl⟩
    · exact ⟨hr, rfl⟩
    · exact ⟨hr, rfl⟩
  simpa [blockStep, hst.1, fetch, hst.2] using hb

/-- Everything the operation of a state can do to a state in it. -/
theorem exec_st_cases {s t : State} (h : exec (stInstr s.st) s = .next t) :
    ((s.st = .idle ∨ s.st = .done ∨ s.st = .failed) ∧ acceptCommand s = .next t) ∨
    (s.st = .startLow ∧ execStStartLow s = .next t) ∨
    (s.st = .startRel ∧ execStStartRel s = .next t) ∨
    (s.st = .ackLow ∧ execStAckLow s = .next t) ∨
    (s.st = .ackHigh ∧ execStAckHigh s = .next t) ∨
    (s.st = .retryWait ∧ execStRetryWait s = .next t) ∨
    (s.st = .bitLow ∧ execStBitLow s = .next t) ∨
    (s.st = .measHigh ∧ execStMeasHigh s = .next t) ∨
    (s.st = .check ∧ t = validate s) := by
  cases hs : s.st <;> rw [hs] at h <;> simp only [stInstr, exec] at h
  · exact .inl ⟨.inl rfl, h⟩
  · exact .inr (.inl ⟨rfl, h⟩)
  · exact .inr (.inr (.inl ⟨rfl, h⟩))
  · exact .inr (.inr (.inr (.inl ⟨rfl, h⟩)))
  · exact .inr (.inr (.inr (.inr (.inl ⟨rfl, h⟩))))
  · exact .inr (.inr (.inr (.inr (.inr (.inl ⟨rfl, h⟩)))))
  · exact .inr (.inr (.inr (.inr (.inr (.inr (.inl ⟨rfl, h⟩))))))
  · exact .inr (.inr (.inr (.inr (.inr (.inr (.inr (.inl ⟨rfl, h⟩)))))))
  · simp only [execStCheck, Host.Outcome.next.injEq] at h
    exact .inr (.inr (.inr (.inr (.inr (.inr (.inr (.inr ⟨rfl, h.symm⟩)))))))
  · exact .inl ⟨.inr (.inl rfl), h⟩
  · exact .inl ⟨.inr (.inr rfl), h⟩

end Sys2Proof.Machine
end

