-- ==== Sys2Proof/Tests/Slice0.lean ====
section
/-! SUPPORT. The model's own tests. Expected values come from the spec: from the encoding tables of
30_encoding.md, the vectors V… and programs P… of 95_test_vectors.md, or the rule named. At the end, for every
obligation with hypotheses, a concrete state that meets them. -/

namespace Sys2Proof.Tests

open Sys2Proof Sys2Proof.Machine

/-! ## Helpers -/

/-- The state after reset with given inputs for the coming step. -/
def start (inp : Input) : State := { State.reset with inp := inp, env := [pollInput 0#64 .high] }

/-- An initialised block in state `st` whose wait began at `t0`, at time `now` with the line at `lvl`. -/
def sample (st : St) (t0 now : Time) (lvl : Level) : State :=
  { start (pollInput now lvl) with st := st, t0 := t0, inited := true }

/-- A listening block: pin an input, pull-up on. -/
def listen (st : St) (t0 now : Time) (lvl : Level) : State := { sample st t0 now lvl with pinPu := true }

/-- A block in CHECK whose buffer holds five bytes. -/
def checking (h f t g c : Byte) : State :=
  { sample .check 0#64 5#64 .high with fb := Memory.ofBytes h f t g c, i := 39#6 }

/-- A host's command at a time. -/
def command (w : CmdWord) (now : Time) : Input :=
  { rst := false, cmd := some w, now := now, lvl := .high, host := none }

/-- A host's read of a port. -/
def readOf (p : Nat) : Input :=
  { rst := false, cmd := none, now := 7#64, lvl := .high, host := some (.readPort p) }

/-- A field of the next state, or none where there is none. -/
def after {α : Type} (f : State → α) : Host.Outcome State Fault Refusal → Option α
  | .next t => some (f t)
  | .fault _ => none
  | .refused _ => none

/-- What is wrong with a word, or none. -/
def wrong (ch : Channel) (w : Nat) : Option DecodeError :=
  match decode ch w with
  | .ok _ => none
  | .error e => some e

/-- The reason of a refusal, or none. -/
def refusal : Host.Outcome State Fault Refusal → Option Refusal
  | .next _ => none
  | .fault _ => none
  | .refused r => some r

/-- The operations of a history without their times. -/
def opsOf (s : State) : List PinOp := s.hist.map PinEvent.op

/-! ## WellFormed refuses (R63 to R66) -/

theorem test_wellFormed_status_state_11 : Instr.wellFormed (.status 11#4 true true false 0#4) = false := by decide
theorem test_wellFormed_status_code_7 : Instr.wellFormed (.status 10#4 true true false 7#4) = false := by decide
theorem test_wellFormed_pinctl_pulldown : Instr.wellFormed (.pinctl true false true false) = false := by decide
theorem test_wellFormed_status_at_its_limits :
    Instr.wellFormed (.status 10#4 true true false 6#4) = true := by decide

/-! ## Every constructor's decoding, by words written out from 30_encoding.md -/

/-- CMD `r oo` (R60). -/
theorem test_decode_cmd : (List.range 8).map (decodeIn .cmd) =
    [some (.nop false), some .initNull, some .readNull, some (.reserved false),
     some (.nop true), some .init, some .read, some (.reserved true)] := by decide

/-- State codes (R64). -/
theorem test_decode_st : (List.range 16).map (decodeIn .st) =
    [some .stIdle, some .stStartLow, some .stStartRel, some .stAckLow, some .stAckHigh, some .stRetryWait,
     some .stBitLow, some .stMeasHigh, some .stCheck, some .stDone, some .stFailed,
     none, none, none, none, none] := by decide

/-- Status codes (R65). -/
theorem test_decode_code : (List.range 16).map (decodeIn .code) =
    [some .codeOk, some .codeNullReference, some .codeHandshakeTimeoutLow, some .codeHandshakeTimeoutHigh,
     some .codeBitStartTimeout, some .codeHighMeasureTimeout, some .codeChecksumMismatch,
     some .codeReservedTimeoutBitSync, some .codeReservedTimeoutHighPulse,
     none, none, none, none, none, none, none] := by decide

/-- The frame of P1, in the bits P1 gives. -/
theorem test_decode_frame : decodeIn .frame 0b0011001000000000000110000000000001001010 =
    some (.frame 0x32#8 0x00#8 0x18#8 0x00#8 0x4A#8) := by decide

/-- STATUS of V60.15 `0x0170`: START_LOW, RVALID, INITED, BUSY, code 0 (R61). -/
theorem test_decode_status : decodeIn .status 0b0000000101110000 = some (.status 1#4 true true true 0#4) := by decide

/-- STATUS of V60.14 `0x0A26`: FAILED, INITED, code 6 (R61). -/
theorem test_decode_status_failed : decodeIn .status 0x0A26 = some (.status 10#4 false true false 6#4) := by decide

/-- RESULT of P1: TEMP 24 above HUM 50 (R62). -/
theorem test_decode_result : decodeIn .result 0b0001100000110010 = some (.result 24#8 50#8) := by decide

/-- PINCTL bits `quod`: pull-up and latch (R63). -/
theorem test_decode_pinctl : decodeIn .pinctl 0b0110 = some (.pinctl false true true false) := by decide

/-- PINCTL of V60.3 `0x0001`: driving low (R63). -/
theorem test_decode_pinctl_driving_low : decodeIn .pinctl 0b0001 = some (.pinctl false false false true) := by decide

/-- Words no block presents are rejected, each by name (R61, R63 to R66). -/
theorem test_decode_rejects : wrong .cmd 8 = some .wordTooWide ∧ wrong .st 11 = some .unassignedStateCode ∧
    wrong .code 9 = some .unassignedStatusCode ∧ wrong .frame (2 ^ 40) = some .wordTooWide ∧
    wrong .status 0x1000 = some .statusBitsNotZero ∧ wrong .status 0x0080 = some .statusBitsNotZero ∧
    wrong .status 0x0B00 = some .unassignedStateCode ∧ wrong .status 0x0007 = some .statusCodeNeverProduced ∧
    wrong .pinctl 0x0010 = some .pinctlBitsNotZero ∧ wrong .pinctl 0x0008 = some .pullDownSet := by decide

/-! ## Decoding and running an opcode table's word -/

theorem test_table_word_init : decodeTableWord 8 0b101 = some .init := by decide
theorem test_table_word_frame : decodeTableWord 40 0x320018004A =
    some (.frame 0x32#8 0x00#8 0x18#8 0x00#8 0x4A#8) := by decide
theorem test_table_word_status : decodeTableWord 16 0x0960 = some (.status 9#4 true true false 0#4) := by decide

/-- V44.1: INIT with a null reference as the first instruction after reset. -/
theorem test_first_word_init_null :
    after (fun t => (t.code, t.st, t.hist, t.inited)) (step (State.reset.withFetchWord 8 0b001)) =
      some (.error .nullReference, .failed, [], false) := by decide

/-- V44.8: READ as the first instruction after reset is refused. -/
theorem test_first_word_read :
    refusal (step (State.reset.withFetchWord 8 0b110)) = some .readBeforeInit := by decide

/-- The frame of P1 as the first instruction after reset: the reading of P1. -/
theorem test_first_word_frame :
    after (fun t => (t.st, t.code, t.hum, t.temp, t.rvalid)) (step (State.reset.withFetchWord 40 0x320018004A)) =
      some (.done, .ok, some 50#8, some 24#8, true) := by decide

/-- The state code 9 as the first instruction after reset: DONE waits for a command (R128). -/
theorem test_first_word_done :
    after (fun t => (t.st, t.hist)) (step (State.reset.withFetchWord 8 0b1001)) = some (.done, []) := by decide

/-! ## Commands -/

/-- V44.3, V60.2: INIT after reset gives STATUS `0x0020`, PINCTL `0x0003` and two pin operations. -/
theorem test_init : after (fun t => (t.statusWord, t.pinctlWord, t.hist)) (exec .init (start (command 0b101#3 0#64))) =
    some (0x0020#16, 0x0003#16, [⟨.setDir .output, 0#64⟩, ⟨.setLevel .high, 0#64⟩]) := by decide

/-- V44.1: STATUS `0x0A01`, PINCTL `0x0002`, no pin operation. -/
theorem test_init_null : after (fun t => (t.statusWord, t.pinctlWord, t.hist))
    (exec .initNull (start (command 0b001#3 0#64))) = some (0x0A01#16, 0x0002#16, []) := by decide

/-- V60.3: READ accepted at 10: STATUS `0x0130`, PINCTL `0x0001`, `t0 = 10`. -/
theorem test_read : after (fun t => (t.statusWord, t.pinctlWord, t.t0, t.att, opsOf t))
    (exec .read { start (command 0b110#3 10#64) with inited := true, att := 1#1 }) =
    some (0x0130#16, 0x0001#16, 10#64, 0#1, [.setDir .output, .setLevel .low]) := by decide

/-- V44.5: READ while busy is ignored. -/
theorem test_read_busy : after (fun t => (t.st, t.t0, t.hist)) (exec .read (sample .ackHigh 20070#64 20100#64 .low)) =
    some (.ackHigh, 20070#64, []) := by decide

/-- V44.2: READ with a null reference after INIT: STATUS `0x0A21`. -/
theorem test_read_null : after (fun t => (t.statusWord, t.hist))
    (exec .readNull { start (command 0b010#3 10#64) with inited := true }) = some (0x0A21#16, []) := by decide

/-- V44.6: the words 0, 4, 3 and 7 change nothing in a rest state. -/
theorem test_nop_and_reserved : [0#3, 4#3, 3#3, 7#3].map (fun w =>
    after (fun t => (t.st, t.code, t.hist)) (exec .stFailed { start (command w 9#64) with
      st := .failed, code := .error .nullReference })) =
    List.replicate 4 (some (.failed, .error .nullReference, [])) := by decide

/-- V44.7: INIT is accepted from FAILED by a step. -/
theorem test_step_init_from_failed : after (fun t => (t.st, t.code, t.inited))
    (step { start (command 0b101#3 20#64) with st := .failed, code := .error .nullReference }) =
    some (.idle, .ok, true) := by decide

/-- P6: a READ accepted in DONE. -/
theorem test_step_read_in_done : after (fun t => (t.st, t.t0))
    (step { start (command 0b110#3 2000000#64) with st := .done, inited := true }) =
    some (.startLow, 2000000#64) := by decide

/-- IDLE with no command does nothing (R118, R127). -/
theorem test_idle : after (fun t => (t.st, t.hist)) (exec .stIdle (start (pollInput 3#64 .low))) =
    some (.idle, []) := by decide

/-! ## The handshake -/

/-- V40.1. -/
theorem test_startLow_stays : after (fun t => (t.st, t.hist)) (exec .stStartLow (sample .startLow 10#64 20009#64 .low)) =
    some (.startLow, []) := by decide

/-- V40.2. -/
theorem test_startLow_ends : after (fun t => (t.st, t.t0, t.hist))
    (exec .stStartLow (sample .startLow 10#64 20010#64 .low)) =
    some (.startRel, 20010#64, [⟨.setLevel .high, 20010#64⟩]) := by decide

/-- P1 at 20040: LISTEN, the input direction before the pull-up. -/
theorem test_startRel_ends : after (fun t => (t.st, t.pinctlWord, t.hist))
    (exec .stStartRel { sample .startRel 20010#64 20040#64 .high with pinDir := .output }) =
    some (.ackLow, 0x0006#16, [⟨.setDir .input, 20040#64⟩, ⟨.pullUp true, 20040#64⟩]) := by decide

/-- V40.4, V40.5: 200 stays, 201 times out, and the first attempt is retried. -/
theorem test_ackLow_boundary :
    after (fun t => t.st) (exec .stAckLow (listen .ackLow 20040#64 20240#64 .high)) = some .ackLow ∧
    after (fun t => (t.st, t.att, t.t0, t.pinPu)) (exec .stAckLow (listen .ackLow 20040#64 20241#64 .high)) =
      some (.retryWait, 1#1, 20241#64, false) := by decide

/-- V40.6: the level is looked at before the time. -/
theorem test_ackLow_level_first : after (fun t => (t.st, t.t0))
    (exec .stAckLow (listen .ackLow 20040#64 20300#64 .low)) = some (.ackHigh, 20300#64) := by decide

/-- P1 at 20150: HS_OK zeroes the buffer and the index. -/
theorem test_ackHigh_ok : after (fun t => (t.st, t.fb, t.i, t.t0))
    (exec .stAckHigh { listen .ackHigh 20070#64 20150#64 .high with fb := [(2, 9#8)], i := 39#6 }) =
    some (.bitLow, [], 0#6, 20150#64) := by decide

/-- V41.2 at 50532: the second attempt's timeout, STATUS `0x0A23` (V60.11). -/
theorem test_ackHigh_last_timeout : after (fun t => (t.statusWord, opsOf t))
    (exec .stAckHigh { listen .ackHigh 50331#64 50532#64 .low with att := 1#1 }) =
    some (0x0A23#16, [.readLine .low, .pullUp false]) := by decide

/-- V40.15. -/
theorem test_retryWait_boundary :
    after (fun t => t.st) (exec .stRetryWait (sample .retryWait 20241#64 30240#64 .high)) = some .retryWait ∧
    after (fun t => (t.st, t.pinDir, t.pinOut)) (exec .stRetryWait (sample .retryWait 20241#64 30241#64 .high)) =
      some (.startLow, .output, .low) := by decide

/-! ## The frame decoder -/

/-- V42.5: the poll at 20251, STATUS `0x0A24` (V60.12). -/
theorem test_bitLow_timeout : after (fun t => (t.statusWord, t.pinPu))
    (exec .stBitLow (listen .bitLow 20150#64 20251#64 .high)) = some (0x0A24#16, false) := by decide

/-- P1 at 20230. -/
theorem test_bitLow_ok : after (fun t => (t.st, t.hi, t.t0))
    (exec .stBitLow { listen .bitLow 20150#64 20230#64 .low with hi := true }) =
    some (.measHigh, false, 20230#64) := by decide

/-- V40.13: a rise poll at elapsed 250 stays; V40.14: the next poll at 1 times out, V60.13. -/
theorem test_measHigh_late_rise :
    after (fun t => (t.st, t.hi, t.tr)) (exec .stMeasHigh (listen .measHigh 1000#64 1250#64 .high)) =
      some (.measHigh, true, 1250#64) ∧
    after (fun t => t.statusWord) (exec .stMeasHigh { listen .measHigh 1000#64 1260#64 .high with hi := true }) =
      some 0x0A25#16 := by decide

/-- P1, slot 39: `dur = 27`, bit 0, CLEANUP and CHECK. -/
theorem test_measHigh_last_fall :
    after (fun t => (t.st, t.i, t.dur, t.fb)) (exec .stMeasHigh
      { listen .measHigh 23578#64 23654#64 .low with hi := true, tr := 23627#64, i := 39#6 }) =
      some (.check, 39#6, 27#64, []) := by decide

/-- P1, slot 38: `dur = 70`, bit 1 at `FB[4]` bit 1 (R101), and the next slot. -/
theorem test_measHigh_fall :
    after (fun t => (t.st, t.i, t.dur, t.fb)) (exec .stMeasHigh
      { listen .measHigh 23458#64 23577#64 .low with hi := true, tr := 23507#64, i := 38#6 }) =
      some (.bitLow, 39#6, 70#64, [(4, 0x02#8)]) := by decide

/-- V42.1. -/
theorem test_classify : [0#64, 1#64, 26#64, 27#64, 28#64, 49#64, 50#64, 51#64, 70#64, 200#64, 250#64,
    0xFFFFFFFFFFFFFFFF#64].map classify =
    [false, false, false, false, false, false, false, true, true, true, true, true] := by decide

/-- V42.2. -/
theorem test_storeBit : [0#6, 1#6, 7#6, 8#6, 15#6, 16#6, 23#6, 24#6, 31#6, 32#6, 39#6].map (fun k =>
      after (fun t => t.fb) (storeBit true { start (pollInput 0#64 .low) with i := k })) =
    [some [(0, 0x80#8)], some [(0, 0x40#8)], some [(0, 0x01#8)], some [(1, 0x80#8)], some [(1, 0x01#8)],
     some [(2, 0x80#8)], some [(2, 0x01#8)], some [(3, 0x80#8)], some [(3, 0x01#8)], some [(4, 0x80#8)],
     some [(4, 0x01#8)]] := by decide

/-- V40.16: the modular difference. -/
theorem test_elapsed_wraps : elapsed 10#64 0xFFFFFFFFFFFFFFFB#64 = 15#64 := by decide

/-! ## The validator -/

/-- V43.5: sums are modulo 256, readings are not checked for range. -/
theorem test_check_accepts :
    after (fun t => (t.statusWord, t.hum, t.temp)) (exec .stCheck (checking 0xC8#8 0x05#8 0xFF#8 0x07#8 0xD3#8)) =
      some (0x0960#16, some 200#8, some 255#8) := by decide

/-- V43.8: one bit flipped; nothing of the results is written, STATUS as V60.14. -/
theorem test_check_rejects :
    after (fun t => (t.statusWord, t.hum, t.temp)) (exec .stCheck (checking 0x33#8 0x00#8 0x18#8 0x00#8 0x4A#8)) =
      some (0x0A26#16, none, none) := by decide

/-- V43.10 as a frame: two flips that cancel are accepted. -/
theorem test_frame : after (fun t => (t.st, t.hum, t.temp, t.byteAt 0, t.byteAt 4))
    (exec (.frame 0x33#8 0x00#8 0x18#8 0x00#8 0x4B#8) (start (pollInput 0#64 .high))) =
    some (.done, some 51#8, some 24#8, 0x33#8, 0x4B#8) := by decide

/-! ## Status codes, host words, reset -/

/-- R65: every code's place in STATUS, with the state it ends in. -/
theorem test_codes : [Instr.codeOk, .codeNullReference, .codeHandshakeTimeoutLow, .codeHandshakeTimeoutHigh,
      .codeBitStartTimeout, .codeHighMeasureTimeout, .codeChecksumMismatch].map (fun i =>
        after (fun t => t.statusWord) (exec i (start (pollInput 0#64 .high)))) =
    [some 0x0900#16, some 0x0A01#16, some 0x0A02#16, some 0x0A03#16, some 0x0A04#16, some 0x0A05#16,
      some 0x0A06#16] := by decide

theorem test_reserved_codes_refused :
    refusal (exec .codeReservedTimeoutBitSync (start (pollInput 0#64 .high))) = some .reservedTimeoutBitSync ∧
    refusal (exec .codeReservedTimeoutHighPulse (start (pollInput 0#64 .high))) =
      some .reservedTimeoutHighPulse := by decide

/-- V60.8: the host words after P1, read by steps; V60.1's PINCTL at reset. -/
theorem test_host_words :
    after (fun t => t.hostWord) (step { start (readOf 1) with
      st := .done, inited := true, rvalid := true, hum := some 50#8, temp := some 24#8 }) = some (some 0x0960#16) ∧
    after (fun t => t.hostWord) (step { start (readOf 2) with
      st := .done, inited := true, rvalid := true, hum := some 50#8, temp := some 24#8 }) = some (some 0x1832#16) ∧
    after (fun t => t.hostWord) (step (start (readOf 3))) = some (some 0x0002#16) := by decide

/-- U8: ports outside the interface. -/
theorem test_host_refusals : refusal (step (start (readOf 0))) = some .outsidePortInterface ∧
    refusal (step (start (readOf 4))) = some .outsidePortInterface := by decide

/-- V70.2: reset in ACK_HIGH with a READ presented: STATUS 0, PINCTL `0x0002`, the history empty. -/
theorem test_reset : after (fun t => (t.statusWord, t.pinctlWord, t.hist, t.t0))
    (step { listen .ackHigh 20070#64 20100#64 .low with
      inp := { command 0b110#3 20100#64 with rst := true }, hist := [⟨.pullUp true, 20040#64⟩] }) =
    some (0x0000#16, 0x0002#16, [], 0#64) := by decide

/-! ## States that meet the obligations' hypotheses -/

/-- A block that has just entered MEAS_HIGH at slot 16, its buffer as in P5. -/
def midFrame : State :=
  { listen .measHigh 21592#64 21600#64 .low with fb := [(0, 0x32#8)], i := 16#6 }

theorem midFrame_inv : Inv midFrame where
  index_le := by decide
  pullUp_iff := by decide
  dir_listening := by decide
  startLow_drives := by decide
  startRel_drives := by decide
  latch_high := by decide
  hum_iff := by decide
  temp_iff := by decide
  busy_inited := by decide
  rest_ok := by decide
  failed_error := by decide
  fb_wf := by decide
  retry_att := by decide
  frame_full := by decide
  done_result := by decide
  slots_ahead_zero := by
    intro _ k h1 h2
    have h3 : 16 ≤ k := h1
    interval_cases k <;> decide

/-- Such a state is busy, and its step has a next state: premises of the whole-machine statements. -/
theorem midFrame_steps : Inv midFrame ∧ midFrame.busy = true ∧ midFrame.inp.rst = false ∧
    midFrame.inp.host = none ∧ ∃ t, step midFrame = .next t :=
  ⟨midFrame_inv, by decide, rfl, rfl, _, rfl⟩

/-- The history's invariant together with the registers'. -/
theorem history_premises : ∃ s t : State, Inv s ∧ HistoryInv s ∧ step s = .next t := by
  refine ⟨{ midFrame with hist := [⟨.pullUp true, 20040#64⟩, ⟨.readLine .low, 20041#64⟩] }, _, ?_, ?_, rfl⟩
  · have h := midFrame_inv
    exact ⟨h.index_le, h.pullUp_iff, h.dir_listening, h.startLow_drives, h.startRel_drives, h.latch_high, h.hum_iff,
      h.temp_iff, h.busy_inited, h.rest_ok, h.failed_error, h.fb_wf, h.retry_att, h.frame_full, h.done_result,
      h.slots_ahead_zero⟩
  · exact ⟨rfl, rfl, rfl, rfl, rfl⟩

/-- `busy` falls: a timeout in MEAS_HIGH (P5 at 21793). -/
theorem busy_falls : ∃ s t : State, Inv s ∧ s.busy = true ∧ s.inp.rst = false ∧ step s = .next t ∧
    t.busy = false ∧ t.code ≠ s.code := by
  refine ⟨{ midFrame with inp := pollInput 21793#64 .low }, _, ?_, by decide, rfl, rfl, by decide, by decide⟩
  have h := midFrame_inv
  exact ⟨h.index_le, h.pullUp_iff, h.dir_listening, h.startLow_drives, h.startRel_drives, h.latch_high, h.hum_iff,
    h.temp_iff, h.busy_inited, h.rest_ok, h.failed_error, h.fb_wf, h.retry_att, h.frame_full, h.done_result,
    h.slots_ahead_zero⟩

theorem decode_premises : Instr.wellFormed (.status 10#4 true true true 6#4) = true ∧
    decode .pinctl 7 = .ok (.pinctl false true true true) := ⟨by decide, rfl⟩

theorem step_runs_premises : ∃ (s : State) (i : Instr), s.inp.rst = false ∧ s.inp.host = none ∧
    decode .st (encodeSt s.st).toNat = .ok i := ⟨midFrame, .stMeasHigh, rfl, rfl, rfl⟩

theorem rest_runs_premises : ∃ (s : State) (w : CmdWord) (i : Instr), s.inp.rst = false ∧ s.inp.host = none ∧
    s.busy = false ∧ s.inp.cmd = some w ∧ decode .cmd w.toNat = .ok i :=
  ⟨start (command 0b101#3 0#64), 0b101#3, .init, rfl, rfl, rfl, rfl, rfl⟩

theorem check_runs_premises : ∃ (s : State) (i : Instr), s.inp.rst = false ∧ s.inp.host = none ∧ s.st = .check ∧
    Memory.wf s.fb = true ∧
    decode .frame (packFrame (s.byteAt 0) (s.byteAt 1) (s.byteAt 2) (s.byteAt 3) (s.byteAt 4)).toNat = .ok i :=
  ⟨checking 0x32#8 0x00#8 0x18#8 0x00#8 0x4A#8, .frame 0x32#8 0x00#8 0x18#8 0x00#8 0x4A#8, rfl, rfl, rfl, rfl, rfl⟩

theorem host_read_premises : ∃ s1 s2 s3 : State,
    (s1.inp.host = some (.readPort 1) ∧ decode .status s1.statusWord.toNat = .ok (.status 0#4 false false false 0#4)) ∧
    (s2.inp.host = some (.readPort 2) ∧ s2.rvalid = true ∧
      decode .result s2.resultWord.toNat = .ok (.result 24#8 50#8)) ∧
    (s3.inp.host = some (.readPort 3) ∧ decode .pinctl s3.pinctlWord.toNat = .ok (.pinctl false false true false)) :=
  ⟨start (readOf 1), { start (readOf 2) with rvalid := true, hum := some 50#8, temp := some 24#8 }, start (readOf 3),
    ⟨rfl, rfl⟩, ⟨rfl, rfl, rfl⟩, ⟨rfl, rfl⟩⟩

theorem outside_interface_premises : ∃ s0 s4 sw : State, s0.inp.host = some (.readPort 0) ∧
    s4.inp.host = some (.readPort 4) ∧ sw.inp.host = some (.writeAbove 0) :=
  ⟨start (readOf 0), start (readOf 4), start { readOf 0 with host := some (.writeAbove 0) }, rfl, rfl, rfl⟩

theorem reset_premises : ∃ s s1 s3 : State, (s.inp.rst = true ∧ s.inp.host = none) ∧
    (s1.inp.rst = true ∧ s1.inp.host = some (.readPort 1)) ∧ (s3.inp.rst = true ∧ s3.inp.host = some (.readPort 3)) :=
  ⟨start { pollInput 0#64 .low with rst := true }, start { readOf 1 with rst := true },
    start { readOf 3 with rst := true }, ⟨rfl, rfl⟩, ⟨rfl, rfl⟩, ⟨rfl, rfl⟩⟩

/-- At rest: not initialised, initialised, with and without a command; and two such blocks at one time. -/
theorem rest_premises : ∃ s u v : State, (s.busy = false ∧ s.inited = false ∧ s.inp.cmd = none) ∧
    (u.busy = false ∧ u.inited = true ∧ u.inp.cmd = some 0b101#3) ∧
    (v.busy = false ∧ v.inited = true ∧ v.inp.now = u.inp.now ∧ v.dur ≠ u.dur) :=
  ⟨start (pollInput 0#64 .low), { start (command 0b101#3 5#64) with inited := true },
    { start (command 0b101#3 5#64) with inited := true, st := .done, dur := 70#64 },
    ⟨rfl, rfl, rfl⟩, ⟨rfl, rfl, rfl⟩, ⟨rfl, rfl, rfl, by decide⟩⟩

theorem init_twice_premises : ∃ s t : State, s.busy = false ∧ exec .init s = .next t :=
  ⟨start (command 0b101#3 0#64), _, rfl, rfl⟩

/-- The delays' boundaries: at 20000, 30 and 10000 µs over, one before not. -/
theorem delay_premises : ∃ a b c d e f : State,
    20000 ≤ (a.inp.now - a.t0).toNat ∧ (b.inp.now - b.t0).toNat < 20000 ∧
    30 ≤ (c.inp.now - c.t0).toNat ∧ (d.inp.now - d.t0).toNat < 30 ∧
    10000 ≤ (e.inp.now - e.t0).toNat ∧ (f.inp.now - f.t0).toNat < 10000 :=
  ⟨sample .startLow 10#64 20010#64 .low, sample .startLow 10#64 20009#64 .low,
    sample .startRel 10#64 40#64 .low, sample .startRel 10#64 39#64 .low,
    sample .retryWait 10#64 10010#64 .low, sample .retryWait 10#64 10009#64 .low,
    by decide, by decide, by decide, by decide, by decide, by decide⟩

/-- The polls' boundaries in ACK_LOW and ACK_HIGH: each level, 200 and 201 µs, each attempt. -/
theorem acknowledgment_premises : ∃ a b c d : State,
    a.inp.lvl = .low ∧ (b.inp.lvl = .high ∧ 200 < (b.inp.now - b.t0).toNat ∧ b.att = 0#1) ∧
    (c.inp.lvl = .high ∧ 200 < (c.inp.now - c.t0).toNat ∧ c.att = 1#1) ∧
    (d.inp.lvl = .high ∧ (d.inp.now - d.t0).toNat ≤ 200) :=
  ⟨listen .ackLow 0#64 500#64 .low, listen .ackLow 0#64 201#64 .high,
    { listen .ackLow 0#64 201#64 .high with att := 1#1 }, listen .ackLow 0#64 200#64 .high,
    by decide, by decide, by decide, by decide⟩

theorem acknowledgment_high_premises : ∃ b c d : State,
    (b.inp.lvl = .low ∧ 200 < (b.inp.now - b.t0).toNat ∧ b.att = 0#1) ∧
    (c.inp.lvl = .low ∧ 200 < (c.inp.now - c.t0).toNat ∧ c.att = 1#1) ∧
    (d.inp.lvl = .low ∧ (d.inp.now - d.t0).toNat ≤ 200) :=
  ⟨listen .ackHigh 0#64 201#64 .low, { listen .ackHigh 0#64 201#64 .low with att := 1#1 },
    listen .ackHigh 0#64 200#64 .low, by decide, by decide, by decide⟩

/-- The polls' boundaries in BIT_LOW (100, 101 µs) and MEAS_HIGH (200, 201 µs, before and after the rise). -/
theorem bit_premises : ∃ a b c d e f g : State,
    a.inp.lvl = .low ∧ (b.inp.lvl = .high ∧ 100 < (b.inp.now - b.t0).toNat) ∧
    (c.inp.lvl = .high ∧ (c.inp.now - c.t0).toNat ≤ 100) ∧
    (d.hi = false ∧ d.inp.lvl = .high) ∧
    ((e.hi = false ∧ e.inp.lvl = .low) ∧ 200 < (e.inp.now - e.t0).toNat) ∧
    ((f.hi = true ∧ f.inp.lvl = .high) ∧ 200 < (f.inp.now - f.t0).toNat) ∧
    ((g.hi = true ∧ g.inp.lvl = .high) ∧ (g.inp.now - g.t0).toNat ≤ 200) :=
  ⟨listen .bitLow 0#64 500#64 .low, listen .bitLow 0#64 101#64 .high, listen .bitLow 0#64 100#64 .high,
    listen .measHigh 0#64 500#64 .high, listen .measHigh 0#64 201#64 .low,
    { listen .measHigh 0#64 201#64 .high with hi := true }, { listen .measHigh 0#64 200#64 .high with hi := true },
    by decide, by decide, by decide, by decide, by decide, by decide, by decide⟩

/-- Fall polls at slots 38 and 39, of 50 and 51 µs, and at the index 40 that does not exist. -/
theorem fall_premises : ∃ a b c : State,
    (a.hi = true ∧ a.inp.lvl = .low ∧ a.i.toNat < 39 ∧ Memory.wf a.fb = true ∧ (a.inp.now - a.tr).toNat ≤ 50) ∧
    (b.hi = true ∧ b.inp.lvl = .low ∧ b.i.toNat = 39 ∧ Memory.wf b.fb = true ∧ 50 < (b.inp.now - b.tr).toNat) ∧
    (c.hi = true ∧ c.inp.lvl = .low ∧ 40 ≤ c.i.toNat ∧ 50 < (c.inp.now - c.tr).toNat) :=
  ⟨{ listen .measHigh 0#64 80#64 .low with hi := true, tr := 30#64, i := 38#6 },
    { listen .measHigh 0#64 81#64 .low with hi := true, tr := 30#64, i := 39#6, fb := [(4, 2#8)] },
    { listen .measHigh 0#64 81#64 .low with hi := true, tr := 30#64, i := 40#6 },
    by decide, by decide, by decide⟩

/-- The measurement's premises at their limits: a 28 µs phase sampled with gap 22, a 70 µs phase with gap 20. -/
theorem sampling_premises : ∃ (s u : State) (a b : Nat),
    (s.hi = true ∧ s.inp.lvl = .low ∧ s.i.toNat ≤ 39 ∧ Memory.wf s.fb = true ∧ a ≤ s.tr.toNat ∧ s.tr.toNat < a + 22 ∧
      b ≤ s.inp.now.toNat ∧ s.inp.now.toNat < b + 22 ∧ s.tr.toNat ≤ s.inp.now.toNat ∧ a ≤ b ∧ b - a ≤ 28) ∧
    (u.hi = true ∧ u.inp.lvl = .low ∧ u.i.toNat ≤ 39 ∧ Memory.wf u.fb = true ∧ a ≤ u.tr.toNat ∧ u.tr.toNat < a + 20 ∧
      b + 42 ≤ u.inp.now.toNat ∧ u.inp.now.toNat < b + 42 + 20 ∧ u.tr.toNat ≤ u.inp.now.toNat ∧ b + 42 - a = 70) :=
  ⟨{ listen .measHigh 0#64 149#64 .low with hi := true, tr := 100#64, i := 39#6 },
    { listen .measHigh 0#64 170#64 .low with hi := true, tr := 119#64, i := 39#6 }, 100, 128, by decide, by decide⟩

/-- A bit-slot's three polls: 51 µs high. -/
def oneSlot : SlotSample := { low := 1#64, rise := 50#64, fall := 101#64 }

theorem slot_premises : ∃ (s u : State) (x : SlotSample) (rest : List Input),
    (s.st = .bitLow ∧ s.i.toNat = 0 ∧ Memory.wf s.fb = true ∧ slotValue s.fb s.i.toNat = false ∧
      s.inp :: s.env = x.inputs ++ rest) ∧
    (u.st = .bitLow ∧ u.i.toNat = 39 ∧ Memory.wf u.fb = true ∧ slotValue u.fb u.i.toNat = false ∧
      u.inp :: u.env = x.inputs ++ rest) :=
  ⟨{ listen .bitLow 0#64 1#64 .low with env := [pollInput 50#64 .high, pollInput 101#64 .low, pollInput 102#64 .low] },
    { listen .bitLow 0#64 1#64 .low with
      i := 39#6, env := [pollInput 50#64 .high, pollInput 101#64 .low, pollInput 102#64 .low] },
    oneSlot, [pollInput 102#64 .low], by decide, by decide⟩

theorem forty_slots_premises : ∃ (s : State) (xs : List SlotSample) (rest : List Input), s.st = .bitLow ∧ s.i = 0#6 ∧
    s.fb = [] ∧ xs.length = 40 ∧ s.inp :: s.env = xs.flatMap SlotSample.inputs ++ rest :=
  ⟨{ listen .bitLow 0#64 1#64 .low with env := [pollInput 50#64 .high, pollInput 101#64 .low] ++
      (List.replicate 39 oneSlot).flatMap SlotSample.inputs },
    oneSlot :: List.replicate 39 oneSlot, [], rfl, rfl, rfl, by simp, by simp [SlotSample.inputs, oneSlot, listen,
      sample, start]⟩

/-- Slots received: none after HS_OK, and one fall poll before the last of forty. -/
theorem slots_received_premises :
    (∃ s t : State, s.st = .ackHigh ∧ s.inp.rst = false ∧ step s = .next t ∧ t.st = .bitLow) ∧
    (∃ (s t : State) (ds : List Time), s.st = .measHigh ∧ s.i.toNat = 39 ∧ Memory.wf s.fb = true ∧
      s.inp.rst = false ∧ SlotsReceived ds s ∧ step s = .next t ∧ fallDuration s = [51#64]) ∧
    (∃ (s t : State) (ds : List Time), s.st = .bitLow ∧ s.i.toNat = 0 ∧ Memory.wf s.fb = true ∧
      s.inp.rst = false ∧ SlotsReceived ds s ∧ step s = .next t) := by
  refine ⟨⟨listen .ackHigh 0#64 5#64 .high, _, rfl, rfl, rfl, rfl⟩,
    ⟨{ listen .measHigh 0#64 81#64 .low with hi := true, tr := 30#64, i := 39#6 }, _, List.replicate 39 27#64,
      rfl, rfl, rfl, rfl, ⟨fun _ => rfl, by decide, ?_, ?_⟩, rfl, by decide⟩,
    ⟨listen .bitLow 0#64 5#64 .high, _, [], rfl, rfl, rfl, rfl, ⟨fun _ => rfl, by decide, ?_, ?_⟩, rfl⟩⟩
  · intro k d h
    rw [List.getElem?_replicate] at h
    split_ifs at h
    cases h
    simp [slotValue, listen, sample, start, State.reset, Config.thBit]
  · intro k _ _
    simp [slotValue, listen, sample, start, State.reset]
  · intro k d h
    simp at h
  · intro k _ _
    simp [slotValue, listen, sample, start, State.reset]

/-! Runs of the progress premises: a second attempt whose line stays 1, under a clock that ticks or stands. -/

/-- The states of a run under given inputs, standing still where a step stops. -/
def driven (e : Nat → Input) (s : State) : Nat → State
  | 0 => s
  | n + 1 =>
    match step { driven e s n with inp := e n } with
    | .next t => t
    | .fault _ => driven e s n
    | .refused _ => driven e s n

/-- The last attempt in ACK_LOW. -/
def lastAttempt : State := { listen .ackLow 0#64 0#64 .high with att := 1#1 }

/-- Waiting in the last attempt's ACK_LOW, or failed. -/
def waitsOrFailed (s : State) : Prop := s.st = .ackLow ∧ s.att = 1#1 ∨ s.st = .failed

theorem waitsOrFailed_step {s : State} (h : waitsOrFailed s) (now : Time) :
    ∃ t, step { s with inp := pollInput now .high } = .next t ∧ waitsOrFailed t := by
  rcases h with ⟨hs, ha⟩ | hs
  · have hx : ∃ u, execStAckLow { s with inp := pollInput now .high } = .next u := by
      unfold execStAckLow
      split
      · exact ⟨_, rfl⟩
      · exact ⟨_, rfl⟩
      · exact ⟨_, rfl⟩
    obtain ⟨u, hu⟩ := hx
    have he : exec (stInstr s.st) { s with inp := pollInput now .high } = .next u :=
      (congrArg (fun x => exec (stInstr x) { s with inp := pollInput now .high }) hs).trans hu
    obtain ⟨a, b, c, hp⟩ := present_frame u
    refine ⟨present u, by rw [step_eq_exec _ rfl rfl, he]; rfl, ?_⟩
    rw [hp]
    rcases execStAckLow_cases hu with ⟨hl, -⟩ | ⟨h0, -⟩ | ⟨-, -, rfl⟩ | ⟨-, rfl⟩
    · cases hl
    · exact absurd (ha.symm.trans h0) (by decide)
    · exact .inr rfl
    · exact .inl ⟨hs, ha⟩
  · have he : exec (stInstr s.st) { s with inp := pollInput now .high } = .next { s with inp := pollInput now .high } := by
      rw [hs]; rfl
    obtain ⟨a, b, c, hp⟩ := present_frame { s with inp := pollInput now .high }
    refine ⟨_, by rw [step_eq_exec _ rfl rfl, he]; rfl, ?_⟩
    rw [hp]
    exact .inr hs

theorem driven_runs (time : Nat → Time) :
    RunsUnder (fun n => pollInput (time n) .high) (driven (fun n => pollInput (time n) .high) lastAttempt) := by
  have all : ∀ n, waitsOrFailed (driven (fun n => pollInput (time n) .high) lastAttempt n) := by
    intro n
    induction n with
    | zero => exact .inl ⟨rfl, rfl⟩
    | succ n ih =>
      obtain ⟨t, ht, hw⟩ := waitsOrFailed_step ih (time n)
      simp only [driven, ht]
      exact hw
  intro n
  obtain ⟨t, ht, -⟩ := waitsOrFailed_step (all n) (time n)
  simp only [driven, ht]

theorem progress_premises : ∃ (e : Nat → Input) (r : Nat → State) (clock : Nat → Nat), Inv (r 0) ∧
    (∀ n, (e n).rst = false) ∧ RunsUnder e r ∧ TimeProgresses e clock ∧ (r 0).busy = true := by
  refine ⟨fun n => pollInput (BitVec.ofNat 64 n) .high, _, id, ?_, fun _ => rfl, driven_runs _,
    ⟨fun _ => rfl, fun n => Nat.le_succ n, fun limit => ⟨limit + 1, Nat.lt_succ_self limit⟩,
      fun n => by simp⟩, rfl⟩
  show Inv lastAttempt
  constructor <;> decide

theorem stopped_premises : ∃ (e : Nat → Input) (r : Nat → State) (stopped : Time), (∀ n, (e n).rst = false) ∧
    RunsUnder e r ∧ (∀ n, (e n).now = stopped) ∧ (stopped - (r 0).t0).toNat < waitLimit (r 0).st ∧
    (∀ n, pollStays (r 0).st (r n).hi (e n).lvl = true) :=
  ⟨fun _ => pollInput 199#64 .high, _, 199#64, fun _ => rfl, driven_runs _, fun _ => rfl, by decide, fun _ => rfl⟩

/-- Buffers whose checksum holds and fails, and an accepted frame with a bit of it. -/
theorem checksum_premises : ∃ a b : State,
    (a.byteAt 4).toNat = ((a.byteAt 0).toNat + (a.byteAt 1).toNat + (a.byteAt 2).toNat + (a.byteAt 3).toNat) % 256 ∧
    (b.byteAt 4).toNat ≠ ((b.byteAt 0).toNat + (b.byteAt 1).toNat + (b.byteAt 2).toNat + (b.byteAt 3).toNat) % 256 ∧
    frameAccepted 0xFFFFFFFFFC#40 = true :=
  ⟨checking 0xFF#8 0xFF#8 0xFF#8 0xFF#8 0xFC#8, checking 0xFF#8 0xFF#8 0xFF#8 0xFF#8 0xFF#8,
    by decide, by decide, by decide⟩

/-- RESULT with and without a reading. -/
theorem result_premises : ∃ s u : State, (s.rvalid = true ∧ s.temp = some 24#8 ∧ s.hum = some 50#8) ∧
    u.rvalid = false :=
  ⟨{ start (readOf 2) with rvalid := true, hum := some 50#8, temp := some 24#8 }, start (readOf 2),
    ⟨rfl, rfl, rfl⟩, rfl⟩

/-- Two states the host cannot tell apart that differ in hidden registers. -/
theorem same_to_host_premises : ∃ s u t v w x y z : State, SameToHost s u ∧ s.dur ≠ u.dur ∧
    (s.rvalid = true ∧ s.hum.isSome = true ∧ s.temp.isSome = true) ∧
    exec s.statusInstr s = .next t ∧ exec u.statusInstr u = .next v ∧
    exec s.resultInstr s = .next w ∧ exec u.resultInstr u = .next x ∧
    exec s.pinctlInstr s = .next y ∧ exec u.pinctlInstr u = .next z :=
  ⟨{ start (readOf 2) with rvalid := true, hum := some 50#8, temp := some 24#8 },
    { start (readOf 2) with rvalid := true, hum := some 50#8, temp := some 24#8, dur := 9#64, i := 3#6 },
    _, _, _, _, _, _, ⟨rfl, rfl, rfl, rfl, rfl, rfl, rfl, rfl, rfl⟩, by decide, ⟨rfl, rfl, rfl⟩,
    rfl, rfl, rfl, rfl, rfl, rfl⟩

/-- Instructions that answer a next state, for the frames: one that stores nothing, a fall poll that stores, an
acceptance, and an INIT that sets `inited`. -/
theorem frame_premises :
    (∃ s t : State, exec .stAckLow s = .next t) ∧
    (∃ s t : State, Memory.wf s.fb = true ∧ exec .stMeasHigh s = .next t ∧ t.fb ≠ s.fb) ∧
    (∃ s t : State, exec .stCheck s = .next t ∧ t.hum ≠ s.hum) ∧
    (∃ s t : State, exec .init s = .next t ∧ s.inited = false ∧ t.inited = true) :=
  ⟨⟨listen .ackLow 0#64 5#64 .high, _, rfl⟩,
    ⟨{ listen .measHigh 0#64 81#64 .low with hi := true, tr := 30#64, i := 3#6 }, _, rfl, rfl, by decide⟩,
    ⟨checking 0x32#8 0x00#8 0x18#8 0x00#8 0x4A#8, _, rfl, by decide⟩,
    ⟨start (command 0b101#3 0#64), _, rfl, rfl, rfl⟩⟩

/-- Two blocks in the same place of a READ that hold different registers otherwise. -/
theorem same_read_premises : ∃ s u t : State, SameRead s u ∧ s.busy = true ∧ s.inp = u.inp ∧ s.inp.rst = false ∧
    s.inp.host = none ∧ step s = .next t ∧ s.hum ≠ u.hum ∧ s.tr ≠ u.tr :=
  ⟨midFrame, { midFrame with hum := some 3#8, tr := 77#64, att := 1#1 }, _,
    ⟨rfl, fun _ _ => rfl, by decide, fun _ => rfl, fun _ => rfl, fun _ => rfl, by decide⟩,
    by decide, rfl, rfl, rfl, rfl, by decide, by decide⟩

/-- A buffer and an index for STORE_BIT at the last slot. -/
theorem store_premises : ∃ s : State, s.i.toNat = 39 ∧ Memory.wf s.fb = true :=
  ⟨{ start (pollInput 0#64 .low) with i := 39#6 }, rfl, rfl⟩

end Sys2Proof.Tests
end

section
/-! PROOFS. The rules every proof over a step uses: what a step is made of, and the rest states. -/

namespace Sys2Proof.Machine

/-- A step is a host access, the reset or the operation `st` codes, and the next step's inputs (R124, R161). -/
theorem step_parts {s t : State} (h : step s = .next t) :
    ∃ s1 u, (s1 = s ∨ ∃ w n, s1 = s.setHostWord w n) ∧
      (u = doReset s1 ∨ exec (stInstr s1.st) s1 = .next u) ∧ t = present u := by
  obtain ⟨s1, u, hport, hblock, rfl⟩ := (step_next_iff s t).1 h
  refine ⟨s1, u, ?_, ?_, rfl⟩
  · rcases hostPort_cases s with hc | hc | ⟨w, n, hc⟩ <;> rw [hc] at hport <;> cases hport
    · exact .inl rfl
    · exact .inr ⟨w, n, rfl⟩
  · unfold blockStep at hblock
    split_ifs at hblock
    · cases hblock
      exact .inl rfl
    · exact .inr hblock

/-- A predicate that a host read, the reset, every state's operation and the presenting of inputs keep is kept by
every step. -/
theorem step_preserves {P : State → Prop} (hread : ∀ s w n, P s → P (s.setHostWord w n))
    (hreset : ∀ s, P (doReset s)) (hop : ∀ s t, P s → exec (stInstr s.st) s = .next t → P t)
    (hpresent : ∀ s, P s → P (present s)) {s t : State} (hs : P s) (h : step s = .next t) : P t := by
  obtain ⟨s1, u, h1, hu, rfl⟩ := step_parts h
  have hs1 : P s1 := by
    rcases h1 with rfl | ⟨w, n, rfl⟩
    · exact hs
    · exact hread s w n hs
  rcases hu with rfl | hu
  · exact hpresent _ (hreset s1)
  · exact hpresent u (hop s1 u hs1 hu)

theorem busy_of_polling {s : State} (h : polling s.st = true) : s.busy = true := by
  unfold State.busy
  cases hs : s.st <;> simp [hs, polling, stBusy] at h ⊢

/-- In the rest states the block does not poll (R36). -/
theorem polling_of_rest {s : State} (h : s.busy = false) : polling s.st = false := by
  by_contra hp
  simp [busy_of_polling (Bool.not_eq_false _ ▸ hp)] at h

theorem busy_of_rest {s : State} (h : s.st = .idle ∨ s.st = .done ∨ s.st = .failed) : s.busy = false := by
  unfold State.busy
  rcases h with h | h | h <;> rw [h] <;> rfl

end Sys2Proof.Machine
end

section
/-! PROOFS. The invariant of the registers (R32) state by state, and that every step keeps it. -/

namespace Sys2Proof.Machine

/-- The part of `Inv` that is the same in every state. -/
structure RegistersOk (s : State) : Prop where
  index_le : s.i.toNat ≤ 39
  hum_iff : s.hum.isSome = s.rvalid
  temp_iff : s.temp.isSome = s.rvalid
  fb_wf : Memory.wf s.fb = true

/-- The slots from `i` on are 0 (R96, R101). -/
def SlotsAheadZero (s : State) : Prop := ∀ k : Nat, s.i.toNat ≤ k → k < 40 → slotValue s.fb k = false

/-- The pin registers (R28 to R30). -/
structure PinIs (s : State) (dir : Dir) (out : Level) (pu : Bool) : Prop where
  dir_eq : s.pinDir = dir
  out_eq : s.pinOut = out
  pu_eq : s.pinPu = pu

/-- A reading taken from the buffer (R111). -/
structure ReadingOfBuffer (s : State) : Prop where
  hum_eq : s.hum = some (s.byteAt 0)
  temp_eq : s.temp = some (s.byteAt 2)
  accepted : accept (s.byteAt 0) (s.byteAt 1) (s.byteAt 2) (s.byteAt 3) (s.byteAt 4) = true

/-- What `Inv` says besides in the state `st` codes, one row per state. -/
abbrev InvAt (s : State) : St → Prop
  | .idle => s.pinOut = .high ∧ s.pinPu = false ∧ s.code = .ok
  | .startLow => s.inited = true ∧ PinIs s .output .low false
  | .startRel => s.inited = true ∧ PinIs s .output .high false
  | .ackLow => s.inited = true ∧ PinIs s .input .high true
  | .ackHigh => s.inited = true ∧ PinIs s .input .high true
  | .retryWait => s.inited = true ∧ PinIs s .input .high false ∧ s.att = 1#1
  | .bitLow => s.inited = true ∧ PinIs s .input .high true ∧ SlotsAheadZero s
  | .measHigh => s.inited = true ∧ PinIs s .input .high true ∧ SlotsAheadZero s
  | .check => s.inited = true ∧ PinIs s .input .high false ∧ s.i = 39#6
  | .done => PinIs s .input .high false ∧ s.code = .ok ∧ s.i = 39#6 ∧ ReadingOfBuffer s
  | .failed => s.pinOut = .high ∧ s.pinPu = false ∧ s.code ≠ .ok

theorem Inv.registersOk {s : State} (h : Inv s) : RegistersOk s := ⟨h.index_le, h.hum_iff, h.temp_iff, h.fb_wf⟩

theorem Inv.at_st {s : State} (h : Inv s) : InvAt s s.st := by
  obtain ⟨-, hpu, hdir, hlow, hrel, hlatch, -, -, hinit, hok, hfail, -, hatt, hfull, hdone, hslots⟩ := h
  cases hs : s.st <;>
    simp only [hs, State.busy, stBusy, polling, listening, ne_eq, not_false_eq_true, forall_const,
      reduceCtorEq, true_or, or_true] at *
  case idle => exact ⟨hlatch, hpu, hok⟩
  case startLow => exact ⟨hinit, hlow.1, hlow.2, hpu⟩
  case startRel => exact ⟨hinit, hrel, hlatch, hpu⟩
  case ackLow => exact ⟨hinit, hdir, hlatch, hpu⟩
  case ackHigh => exact ⟨hinit, hdir, hlatch, hpu⟩
  case retryWait => exact ⟨hinit, ⟨hdir, hlatch, hpu⟩, hatt⟩
  case bitLow => exact ⟨hinit, ⟨hdir, hlatch, hpu⟩, hslots⟩
  case measHigh => exact ⟨hinit, ⟨hdir, hlatch, hpu⟩, hslots⟩
  case check => exact ⟨hinit, ⟨hdir, hlatch, hpu⟩, hfull⟩
  case done => exact ⟨⟨hdir, hlatch, hpu⟩, hok, hfull, hdone.1, hdone.2.1, hdone.2.2⟩
  case failed => exact ⟨hlatch, hpu, hfail⟩

theorem Inv.of_at {s : State} (x : St) (hs : s.st = x) (hr : RegistersOk s) (ha : InvAt s x) : Inv s := by
  obtain ⟨hidx, hhum, htemp, hwf⟩ := hr
  cases x
  case idle | failed =>
    obtain ⟨hout, hpu, hcode⟩ := ha
    constructor <;> simp [polling, listening, State.busy, stBusy, *]
  case startLow | startRel | ackLow | ackHigh =>
    obtain ⟨hinit, hdir, hout, hpu⟩ := ha
    constructor <;> simp [polling, listening, State.busy, stBusy, *]
  case retryWait | check =>
    obtain ⟨hinit, ⟨hdir, hout, hpu⟩, hlast⟩ := ha
    constructor <;> simp [polling, listening, State.busy, stBusy, *]
  case bitLow | measHigh =>
    obtain ⟨hinit, ⟨hdir, hout, hpu⟩, hslots⟩ := ha
    constructor <;> simp [polling, listening, State.busy, stBusy, *]
    exact hslots
  case done =>
    obtain ⟨⟨hdir, hout, hpu⟩, hcode, hfull, hh, ht, hacc⟩ := ha
    have hvalid : s.rvalid = true := by simpa [hh] using hhum.symm
    constructor <;> simp [polling, listening, State.busy, stBusy, *]

/-! ## What is not a register of the block -/

/-- The host's word and the inputs to come are no part of the invariant. -/
theorem Inv.with_outside {s : State} (h : Inv s) (w : Option HostWord) (inp : Input) (env : List Input) (n : Nat) :
    Inv { s with hostWord := w, inp := inp, env := env, fresh := n } := { h with }

theorem Inv.present {s : State} (h : Inv s) : Inv (present s) := by
  obtain ⟨inp, env, n, hp⟩ := present_frame s
  rw [hp]
  exact h.with_outside s.hostWord inp env n

theorem Inv.doReset (s : State) : Inv (doReset s) :=
  .of_at .idle rfl ⟨Nat.zero_le _, rfl, rfl, rfl⟩ ⟨rfl, rfl, rfl⟩

/-! ## The rest states -/

/-- At rest the latch is high and the pull-up off (R29, R32). -/
theorem Inv.pin_at_rest {s : State} (h : Inv s) (hb : s.busy = false) : s.pinOut = .high ∧ s.pinPu = false := by
  refine ⟨h.latch_high fun hs => ?_, h.pullUp_iff.trans (polling_of_rest hb)⟩
  simp [State.busy, hs, stBusy] at hb

theorem Inv.fail_at_rest {s : State} (h : Inv s) (hb : s.busy = false) (e : ErrorKind) : Inv (fail e s) := by
  obtain ⟨hout, hpu⟩ := h.pin_at_rest hb
  exact .of_at .failed rfl { h.registersOk with } ⟨hout, hpu, by simp [fail]⟩

theorem Inv.afterInit {s : State} (h : Inv s) (hb : s.busy = false) : Inv (afterInit s) :=
  .of_at .idle rfl { h.registersOk with } ⟨rfl, (h.pin_at_rest hb).2, rfl⟩

/-- A start signal, the first attempt's or the second's (R86). -/
theorem Inv.enterStartLow {s : State} (h : RegistersOk s) (hpu : s.pinPu = false) (hinit : s.inited = true) :
    Inv (enterStartLow s) := .of_at .startLow rfl { h with } ⟨hinit, rfl, rfl, hpu⟩

theorem Inv.acceptCommand {s t : State} (h : Inv s) (ht : acceptCommand s = .next t) : Inv t := by
  rcases acceptCommand_cases ht with rfl | ⟨hb, rfl⟩ | ⟨-, hb, rfl⟩ | ⟨hb, hinit, rfl⟩
  · exact h
  · exact h.fail_at_rest hb _
  · exact h.afterInit hb
  · exact Inv.enterStartLow { h.registersOk with } (h.pin_at_rest hb).2 hinit

/-! ## The handshake -/

theorem Inv.startLow_step {s t : State} (h : Inv s) (hs : s.st = .startLow) (ht : execStStartLow s = .next t) :
    Inv t := by
  obtain ⟨hinit, hpin⟩ : InvAt s .startLow := hs ▸ h.at_st
  rcases execStStartLow_cases ht with ⟨-, rfl⟩ | ⟨-, rfl⟩
  · exact .of_at .startRel rfl { h.registersOk with } ⟨hinit, hpin.dir_eq, rfl, hpin.pu_eq⟩
  · exact h

theorem Inv.startRel_step {s t : State} (h : Inv s) (hs : s.st = .startRel) (ht : execStStartRel s = .next t) :
    Inv t := by
  obtain ⟨hinit, hpin⟩ : InvAt s .startRel := hs ▸ h.at_st
  rcases execStStartRel_cases ht with ⟨-, rfl⟩ | ⟨-, rfl⟩
  · exact .of_at .ackLow rfl { h.registersOk with } ⟨hinit, rfl, hpin.out_eq, rfl⟩
  · exact h

theorem Inv.retryWait_step {s t : State} (h : Inv s) (hs : s.st = .retryWait) (ht : execStRetryWait s = .next t) :
    Inv t := by
  obtain ⟨hinit, hpin, -⟩ : InvAt s .retryWait := hs ▸ h.at_st
  rcases execStRetryWait_cases ht with ⟨-, rfl⟩ | ⟨-, rfl⟩
  · exact Inv.enterStartLow h.registersOk hpin.pu_eq hinit
  · exact h

/-- A poll that ends no wait (R79, R80). -/
theorem Inv.readLine {s : State} (h : Inv s) : Inv s.readLine := { h with }

/-- An error raised in a polling state, after CLEANUP (R103, R145). -/
theorem Inv.fail_cleanup {s : State} (h : RegistersOk s) (hout : s.pinOut = .high) (e : ErrorKind) :
    Inv (fail e (cleanup s.readLine)) :=
  .of_at .failed rfl { h with } ⟨hout, rfl, by simp [fail]⟩

/-- The first attempt's end (R92). -/
theorem Inv.retry {s : State} (h : RegistersOk s) (hinit : s.inited = true) (hpin : PinIs s .input .high true) :
    Inv (((cleanup s.readLine).setAtt 1#1).enter .retryWait) :=
  .of_at .retryWait rfl { h with } ⟨hinit, ⟨hpin.dir_eq, hpin.out_eq, rfl⟩, rfl⟩

theorem slotsAheadZero_hsOk (s : State) : SlotsAheadZero (hsOk s) := fun _ _ _ => BitVec.getLsbD_zero

theorem Inv.ackLow_step {s t : State} (h : Inv s) (hs : s.st = .ackLow) (ht : execStAckLow s = .next t) :
    Inv t := by
  obtain ⟨hinit, hpin⟩ : InvAt s .ackLow := hs ▸ h.at_st
  rcases execStAckLow_cases ht with ⟨-, rfl⟩ | ⟨-, -, rfl⟩ | ⟨-, -, rfl⟩ | ⟨-, rfl⟩
  · exact .of_at .ackHigh rfl { h.registersOk with } ⟨hinit, { hpin with }⟩
  · exact Inv.retry h.registersOk hinit hpin
  · exact Inv.fail_cleanup h.registersOk hpin.out_eq _
  · exact h.readLine

theorem Inv.ackHigh_step {s t : State} (h : Inv s) (hs : s.st = .ackHigh) (ht : execStAckHigh s = .next t) :
    Inv t := by
  obtain ⟨hinit, hpin⟩ : InvAt s .ackHigh := hs ▸ h.at_st
  rcases execStAckHigh_cases ht with ⟨-, rfl⟩ | ⟨-, -, rfl⟩ | ⟨-, -, rfl⟩ | ⟨-, rfl⟩
  · exact .of_at .bitLow rfl { h.registersOk with index_le := Nat.zero_le _, fb_wf := Memory.wf_nil }
      ⟨hinit, { hpin with }, slotsAheadZero_hsOk _⟩
  · exact Inv.retry h.registersOk hinit hpin
  · exact Inv.fail_cleanup h.registersOk hpin.out_eq _
  · exact h.readLine

/-! ## The bit loop -/

theorem Inv.bitLow_step {s t : State} (h : Inv s) (hs : s.st = .bitLow) (ht : execStBitLow s = .next t) :
    Inv t := by
  obtain ⟨hinit, hpin, hslots⟩ : InvAt s .bitLow := hs ▸ h.at_st
  rcases execStBitLow_cases ht with ⟨-, rfl⟩ | ⟨-, rfl⟩ | ⟨-, rfl⟩
  · exact .of_at .measHigh rfl { h.registersOk with } ⟨hinit, { hpin with }, hslots⟩
  · exact Inv.fail_cleanup h.registersOk hpin.out_eq _
  · exact h.readLine

/-- STORE_BIT keeps the buffer canonical (R101). -/
theorem RegistersOk.fallStored {s : State} (h : RegistersOk s) : RegistersOk (fallStored s) :=
  { h with fb_wf := storedBit_wf h.fb_wf h.index_le _ }

/-- After STORE_BIT of slot `i` and NEXT_BIT the slots from the new index on are still 0 (R101, R102). -/
theorem slotsAheadZero_next {s : State} (hr : RegistersOk s) (hslots : SlotsAheadZero s)
    (hi : (s.i + 1#6).toNat = s.i.toNat + 1) :
    SlotsAheadZero (((fallStored s).setIndex (s.i + 1#6)).enter .bitLow) := by
  intro k hk hk40
  have hk' : s.i.toNat + 1 ≤ k := hi ▸ hk
  have hne : k ≠ s.i.toNat := by omega
  calc slotValue (storedBit _ s.i s.fb) k
      = ((_ && decide (k = s.i.toNat)) || slotValue s.fb k) := slotValue_storedBit hr.fb_wf s.i k _
    _ = slotValue s.fb k := by simp [hne]
    _ = false := hslots k (by omega) hk40

/-- Below slot 39 the index counts up without wrapping (R102). -/
theorem next_index {k : BitVec 6} (hle : k.toNat ≤ 39) : (k + 1#6).toNat = k.toNat + 1 := by
  rw [BitVec.toNat_add]
  simp
  omega

theorem index_lt_of_ne {k : BitVec 6} (hle : k.toNat ≤ 39) (hne : k ≠ 39#6) : k.toNat < 39 := by
  have : k.toNat ≠ 39 := fun hc => hne (BitVec.eq_of_toNat_eq hc)
  omega

/-- A fall poll, at the last slot and before it (R99 to R102). -/
theorem Inv.afterFall {s : State} (hr : RegistersOk s) (hinit : s.inited = true) (hpin : PinIs s .input .high true)
    (hslots : SlotsAheadZero s) : Inv (afterFall s) := by
  have hnext := next_index hr.index_le
  rcases afterFall_cases s with ⟨hi, ht⟩ | ⟨hi, ht⟩ <;> rw [ht]
  · exact .of_at .check rfl { hr.fallStored with } ⟨hinit, ⟨hpin.dir_eq, hpin.out_eq, rfl⟩, hi⟩
  · have hlt := index_lt_of_ne hr.index_le hi
    exact .of_at .bitLow rfl { hr.fallStored with index_le := hnext.trans_le hlt }
      ⟨hinit, { hpin with }, slotsAheadZero_next hr hslots hnext⟩

theorem Inv.measHigh_step {s t : State} (h : Inv s) (hs : s.st = .measHigh) (ht : execStMeasHigh s = .next t) :
    Inv t := by
  obtain ⟨hinit, hpin, hslots⟩ : InvAt s .measHigh := hs ▸ h.at_st
  rcases execStMeasHigh_cases ht with ⟨-, -, rfl⟩ | ⟨-, -, rfl, -⟩ | ⟨-, -, rfl⟩ | ⟨-, -, rfl⟩
  · exact { h with }
  · exact Inv.afterFall h.registersOk hinit hpin hslots
  · exact Inv.fail_cleanup h.registersOk hpin.out_eq _
  · exact h.readLine

/-! ## The validator -/

theorem Inv.check_step {s : State} (h : Inv s) (hs : s.st = .check) : Inv (validate s) := by
  obtain ⟨-, hpin, hfull⟩ : InvAt s .check := hs ▸ h.at_st
  rcases validate_cases s with ⟨hacc, ht⟩ | ⟨-, ht⟩ <;> rw [ht]
  · exact .of_at .done rfl { h.registersOk with hum_iff := rfl, temp_iff := rfl }
      ⟨{ hpin with }, rfl, hfull, rfl, rfl, hacc⟩
  · exact .of_at .failed rfl { h.registersOk with } ⟨hpin.out_eq, hpin.pu_eq, by simp [fail]⟩

/-! ## The step -/

/-- The operation of the state the block is in keeps the invariant. -/
theorem Inv.exec_st {s t : State} (h : Inv s) (ht : exec (stInstr s.st) s = .next t) : Inv t := by
  rcases exec_st_cases ht with ⟨-, ht⟩ | ⟨hs, ht⟩ | ⟨hs, ht⟩ | ⟨hs, ht⟩ | ⟨hs, ht⟩ | ⟨hs, ht⟩ | ⟨hs, ht⟩ | ⟨hs, ht⟩ |
    ⟨hs, rfl⟩
  · exact h.acceptCommand ht
  · exact h.startLow_step hs ht
  · exact h.startRel_step hs ht
  · exact h.ackLow_step hs ht
  · exact h.ackHigh_step hs ht
  · exact h.retryWait_step hs ht
  · exact h.bitLow_step hs ht
  · exact h.measHigh_step hs ht
  · exact h.check_step hs

/-- Settles O52: the invariant is read state by state (`Inv.at_st`, `Inv.of_at`) and kept by every state's
operation. -/
theorem stepKeepsTheRegisterInvariant : Obligations.StepKeepsTheRegisterInvariant := by
  unfold Obligations.StepKeepsTheRegisterInvariant
  intro s t hs ht
  exact step_preserves (P := Inv) (fun s w n h => h.with_outside (some w) s.inp s.env (s.fresh + n))
    (fun s => Inv.doReset s) (fun _ _ h ht => h.exec_st ht) (fun _ h => h.present) hs ht

/-- Settles O53. -/
theorem resetStateMeetsTheRegisterInvariant : Obligations.ResetStateMeetsTheRegisterInvariant :=
  .of_at .idle rfl ⟨Nat.zero_le _, rfl, rfl, rfl⟩ ⟨rfl, rfl, rfl⟩

end Sys2Proof.Machine
end

section
/-! PROOFS. The history's invariant (R31, R42, R43, R103, R146): one rule per pin operation, then every step. -/

namespace Sys2Proof.Machine

/-! ## One operation more -/

@[simp] theorem replay_append_one (h : List PinEvent) (e : PinEvent) : replay (h ++ [e]) = (replay h).apply e := by
  simp [replay]

@[simp] theorem pullUps_append_one (b : Bool) (h : List PinEvent) (e : PinEvent) :
    pullUps b (h ++ [e]) = pullUps b h + if e.op = .pullUp b then 1 else 0 := by
  simp [pullUps, List.countP_singleton]

/-! ## The pin operations -/

/-- What is no pin operation leaves the history's invariant alone. -/
theorem HistoryInv.of_same_pin {s t : State} (h : HistoryInv s) (hhist : t.hist = s.hist) (hdir : t.pinDir = s.pinDir)
    (hout : t.pinOut = s.pinOut) (hpu : t.pinPu = s.pinPu) : HistoryInv t := by
  obtain ⟨h1, h2, h3, h4, h5⟩ := h
  exact ⟨by rw [hhist, hdir, h1], by rw [hhist, hout, h2], by rw [hhist, hpu, h3], by rw [hhist, h4],
    by rw [hhist, hpu, h5]⟩

/-- An event that is no pull-up operation keeps the balance. -/
theorem HistoryInv.balance_append {s : State} (h : HistoryInv s) {e : PinEvent} (he : ∀ b, e.op ≠ .pullUp b) :
    pullUps true (s.hist ++ [e]) = pullUps false (s.hist ++ [e]) + (if s.pinPu then 1 else 0) := by
  simp [he, h.balance]

theorem HistoryInv.setDir {s : State} (h : HistoryInv s) (d : Dir) : HistoryInv (s.setDir d) where
  dir_eq := by simp [PinTrace.apply]
  out_eq := by simp [PinTrace.apply, h.out_eq]
  pu_eq := by simp [PinTrace.apply, h.pu_eq]
  reads := by simp [PinTrace.apply, h.reads]
  balance := h.balance_append (by simp)

theorem HistoryInv.setLevel {s : State} (h : HistoryInv s) (l : Level) : HistoryInv (s.setLevel l) where
  dir_eq := by simp [PinTrace.apply, h.dir_eq]
  out_eq := by simp [PinTrace.apply]
  pu_eq := by simp [PinTrace.apply, h.pu_eq]
  reads := by simp [PinTrace.apply, h.reads]
  balance := h.balance_append (by simp)

/-- A pull-up operation keeps the balance where it changes the pull-up (R103). -/
theorem HistoryInv.pullUp {s : State} (h : HistoryInv s) {b : Bool} (hb : s.pinPu = !b) :
    HistoryInv (s.pullUp b) where
  dir_eq := by simp [PinTrace.apply, h.dir_eq]
  out_eq := by simp [PinTrace.apply, h.out_eq]
  pu_eq := by simp [PinTrace.apply]
  reads := by simp [PinTrace.apply, h.reads]
  balance := by cases b <;> simp [h.balance, hb]

/-- A read is made while the block listens (R42). -/
theorem HistoryInv.readLine {s : State} (h : HistoryInv s) (hdir : s.pinDir = .input) (hpu : s.pinPu = true) :
    HistoryInv s.readLine where
  dir_eq := by simp [PinTrace.apply, h.dir_eq]
  out_eq := by simp [PinTrace.apply, h.out_eq]
  pu_eq := by simp [PinTrace.apply, h.pu_eq]
  reads := by simp [PinTrace.apply, h.reads, h.dir_eq, h.pu_eq, hdir, hpu]
  balance := h.balance_append (by simp)

/-! ## The operations of the states -/

theorem HistoryInv.doReset (s : State) : HistoryInv (doReset s) := ⟨rfl, rfl, rfl, rfl, rfl⟩

theorem HistoryInv.enterStartLow {s : State} (h : HistoryInv s) : HistoryInv (enterStartLow s) :=
  ((h.setDir .output).setLevel .low).of_same_pin rfl rfl rfl rfl

theorem HistoryInv.acceptCommand {s t : State} (h : HistoryInv s) (ht : acceptCommand s = .next t) :
    HistoryInv t := by
  rcases acceptCommand_cases ht with rfl | ⟨-, rfl⟩ | ⟨-, -, rfl⟩ | ⟨-, -, rfl⟩
  · exact h
  · exact h.of_same_pin rfl rfl rfl rfl
  · exact ((h.setDir .output).setLevel .high).of_same_pin rfl rfl rfl rfl
  · exact HistoryInv.enterStartLow (h.of_same_pin rfl rfl rfl rfl)

theorem listening_of_polling {x : St} (h : polling x = true) : listening x = true := by
  cases x <;> simp [polling, listening] at h ⊢

/-- A poll reads the line while the block listens, so its `Read` and a CLEANUP after it keep the invariant. -/
theorem HistoryInv.poll {s : State} (h : HistoryInv s) (hi : Inv s) (hp : polling s.st = true) :
    HistoryInv s.readLine ∧ HistoryInv (cleanup s.readLine) := by
  have hpu : s.pinPu = true := hi.pullUp_iff.trans hp
  have hread := h.readLine (hi.dir_listening (listening_of_polling hp)) hpu
  exact ⟨hread, hread.pullUp hpu⟩

theorem HistoryInv.startLow_step {s t : State} (h : HistoryInv s) (ht : execStStartLow s = .next t) :
    HistoryInv t := by
  rcases execStStartLow_cases ht with ⟨-, rfl⟩ | ⟨-, rfl⟩
  · exact (h.setLevel .high).of_same_pin rfl rfl rfl rfl
  · exact h

theorem HistoryInv.startRel_step {s t : State} (h : HistoryInv s) (hpu : s.pinPu = false)
    (ht : execStStartRel s = .next t) : HistoryInv t := by
  rcases execStStartRel_cases ht with ⟨-, rfl⟩ | ⟨-, rfl⟩
  · exact ((h.setDir .input).pullUp (b := true) hpu).of_same_pin rfl rfl rfl rfl
  · exact h

theorem HistoryInv.retryWait_step {s t : State} (h : HistoryInv s) (ht : execStRetryWait s = .next t) :
    HistoryInv t := by
  rcases execStRetryWait_cases ht with ⟨-, rfl⟩ | ⟨-, rfl⟩
  · exact h.enterStartLow
  · exact h

theorem HistoryInv.ackLow_step {s t : State} (hread : HistoryInv s.readLine) (hclean : HistoryInv (cleanup s.readLine))
    (ht : execStAckLow s = .next t) : HistoryInv t := by
  rcases execStAckLow_cases ht with ⟨-, rfl⟩ | ⟨-, -, rfl⟩ | ⟨-, -, rfl⟩ | ⟨-, rfl⟩
  · exact hread.of_same_pin rfl rfl rfl rfl
  · exact hclean.of_same_pin rfl rfl rfl rfl
  · exact hclean.of_same_pin rfl rfl rfl rfl
  · exact hread

theorem HistoryInv.ackHigh_step {s t : State} (hread : HistoryInv s.readLine)
    (hclean : HistoryInv (cleanup s.readLine)) (ht : execStAckHigh s = .next t) : HistoryInv t := by
  rcases execStAckHigh_cases ht with ⟨-, rfl⟩ | ⟨-, -, rfl⟩ | ⟨-, -, rfl⟩ | ⟨-, rfl⟩
  · exact hread.of_same_pin rfl rfl rfl rfl
  · exact hclean.of_same_pin rfl rfl rfl rfl
  · exact hclean.of_same_pin rfl rfl rfl rfl
  · exact hread

theorem HistoryInv.bitLow_step {s t : State} (hread : HistoryInv s.readLine) (hclean : HistoryInv (cleanup s.readLine))
    (ht : execStBitLow s = .next t) : HistoryInv t := by
  rcases execStBitLow_cases ht with ⟨-, rfl⟩ | ⟨-, rfl⟩ | ⟨-, rfl⟩
  · exact hread.of_same_pin rfl rfl rfl rfl
  · exact hclean.of_same_pin rfl rfl rfl rfl
  · exact hread

/-- A fall poll's only operation after the read is the last slot's CLEANUP (R102). -/
theorem HistoryInv.afterFall {s : State} (hread : HistoryInv s.readLine) (hclean : HistoryInv (cleanup s.readLine)) :
    HistoryInv (afterFall s) := by
  rcases afterFall_cases s with ⟨-, ht⟩ | ⟨-, ht⟩ <;> rw [ht]
  · exact hclean.of_same_pin rfl rfl rfl rfl
  · exact hread.of_same_pin rfl rfl rfl rfl

theorem HistoryInv.measHigh_step {s t : State} (hread : HistoryInv s.readLine)
    (hclean : HistoryInv (cleanup s.readLine)) (ht : execStMeasHigh s = .next t) : HistoryInv t := by
  rcases execStMeasHigh_cases ht with ⟨-, -, rfl⟩ | ⟨-, -, rfl, -⟩ | ⟨-, -, rfl⟩ | ⟨-, -, rfl⟩
  · exact hread.of_same_pin rfl rfl rfl rfl
  · exact hread.afterFall hclean
  · exact hclean.of_same_pin rfl rfl rfl rfl
  · exact hread

theorem HistoryInv.check_step {s : State} (h : HistoryInv s) : HistoryInv (validate s) := by
  rcases validate_cases s with ⟨-, ht⟩ | ⟨-, ht⟩ <;> rw [ht] <;> exact h.of_same_pin rfl rfl rfl rfl

/-! ## The step -/

/-- The operation of the state the block is in keeps the history's invariant. -/
theorem HistoryInv.exec_st {s t : State} (h : HistoryInv s) (hi : Inv s) (ht : exec (stInstr s.st) s = .next t) :
    HistoryInv t := by
  rcases exec_st_cases ht with ⟨-, ht⟩ | ⟨-, ht⟩ | ⟨hs, ht⟩ | ⟨hs, ht⟩ | ⟨hs, ht⟩ | ⟨-, ht⟩ | ⟨hs, ht⟩ | ⟨hs, ht⟩ |
    ⟨-, rfl⟩
  · exact h.acceptCommand ht
  · exact h.startLow_step ht
  · exact h.startRel_step (hi.pullUp_iff.trans (hs ▸ rfl)) ht
  · obtain ⟨hread, hclean⟩ := h.poll hi (hs ▸ rfl)
    exact hread.ackLow_step hclean ht
  · obtain ⟨hread, hclean⟩ := h.poll hi (hs ▸ rfl)
    exact hread.ackHigh_step hclean ht
  · exact h.retryWait_step ht
  · obtain ⟨hread, hclean⟩ := h.poll hi (hs ▸ rfl)
    exact hread.bitLow_step hclean ht
  · obtain ⟨hread, hclean⟩ := h.poll hi (hs ▸ rfl)
    exact hread.measHigh_step hclean ht
  · exact h.check_step

/-- Both invariants together, which every step keeps: the history's needs the registers' to know the pull-up. -/
structure SafeHistory (s : State) : Prop where
  registers : Inv s
  history : HistoryInv s

/-- Settles O54: with the registers' invariant, every state's operation keeps the history's. -/
theorem stepKeepsTheHistoryInvariant : Obligations.StepKeepsTheHistoryInvariant := by
  unfold Obligations.StepKeepsTheHistoryInvariant
  intro s t hi hh ht
  refine (step_preserves (P := SafeHistory) ?read ?reset ?operation ?present ⟨hi, hh⟩ ht).history
  case read =>
    exact fun s w n h => ⟨h.registers.with_outside (some w) s.inp s.env (s.fresh + n),
      h.history.of_same_pin rfl rfl rfl rfl⟩
  case reset => exact fun s => ⟨.doReset s, .doReset s⟩
  case operation => exact fun _ _ h ht => ⟨h.registers.exec_st ht, h.history.exec_st h.registers ht⟩
  case present =>
    exact fun s h => ⟨h.registers.present, h.history.of_same_pin (present_hist s) (present_pinDir s)
      (present_pinOut s) (present_pinPu s)⟩

/-- Settles O55. -/
theorem resetStateMeetsTheHistoryInvariant : Obligations.ResetStateMeetsTheHistoryInvariant :=
  ⟨rfl, rfl, rfl, rfl, rfl⟩

end Sys2Proof.Machine
end

section
/-! PROOFS. What a step appends to the history (R31, R36, R81, R107), and when `code` is written (R24). -/

namespace Sys2Proof.Machine

/-- Between `s` and `t` the history has grown by a step's pin operations: the read of a polling state first and no
other, at most two in all, and nothing else in a wait that is not over. -/
def AppendsPinOps (s t : State) : Prop :=
  ∃ ops : List PinOp, ops.length ≤ 2 ∧
    t.hist = s.hist ++ ops.map (fun o => ⟨o, s.inp.now⟩) ∧
    (polling s.st = true → ∃ more, ops = .readLine s.inp.lvl :: more ∧ ∀ l, .readLine l ∉ more) ∧
    (polling s.st = false → ∀ l, .readLine l ∉ ops) ∧
    (s.busy = true → t.st = s.st → ops = if polling s.st then [.readLine s.inp.lvl] else [])

/-- In a polling state the step's read comes first; after it comes at most a CLEANUP. -/
theorem AppendsPinOps.of_poll {s t : State} (hp : polling s.st = true) :
    (t.hist = s.readLine.hist ∨ t.hist = (cleanup s.readLine).hist ∧ t.st ≠ s.st) → AppendsPinOps s t
  | .inl hhist => ⟨[.readLine s.inp.lvl], by simp, by simp [hhist], by simp [hp], by simp [hp], by simp [hp]⟩
  | .inr ⟨hhist, hst⟩ =>
    ⟨[.readLine s.inp.lvl, .pullUp false], by simp, by simp [hhist, cleanup], by simp [hp], by simp [hp], by simp [hst]⟩

/-- In a state that does not poll, a step with operations makes no read, and ends the state's wait if it was one. -/
theorem AppendsPinOps.of_no_poll {s t : State} (hp : polling s.st = false) (ops : List PinOp)
    (hlen : ops.length ≤ 2) (hhist : t.hist = s.hist ++ ops.map (fun o => ⟨o, s.inp.now⟩))
    (hread : ∀ l, .readLine l ∉ ops) (hstay : s.busy = true → t.st ≠ s.st) : AppendsPinOps s t :=
  ⟨ops, hlen, hhist, by simp [hp], fun _ => hread, fun hb hst => absurd hst (hstay hb)⟩

/-- A step that performs no operation, in a state that does not poll. -/
theorem AppendsPinOps.of_same_hist {s t : State} (hp : polling s.st = false) (hhist : t.hist = s.hist) :
    AppendsPinOps s t := ⟨[], by simp, by simp [hhist], by simp [hp], by simp, by simp [hp]⟩

theorem acceptCommand_appends {s t : State} (hs : s.busy = false) (ht : acceptCommand s = .next t) :
    AppendsPinOps s t := by
  have hp := polling_of_rest hs
  have hstay : s.busy = true → t.st ≠ s.st := by simp [hs]
  rcases acceptCommand_cases ht with rfl | ⟨-, rfl⟩ | ⟨-, -, rfl⟩ | ⟨-, -, rfl⟩
  · exact .of_same_hist hp rfl
  · exact .of_same_hist hp rfl
  · exact .of_no_poll hp [.setDir .output, .setLevel .high] (by simp) (by simp [afterInit]) (by simp) hstay
  · exact .of_no_poll hp [.setDir .output, .setLevel .low] (by simp) (by simp [enterStartLow]) (by simp) hstay

theorem startLow_appends {s t : State} (hs : s.st = .startLow) (ht : execStStartLow s = .next t) :
    AppendsPinOps s t := by
  have hp : polling s.st = false := hs ▸ rfl
  rcases execStStartLow_cases ht with ⟨-, rfl⟩ | ⟨-, rfl⟩
  · exact .of_no_poll hp [.setLevel .high] (by simp) (by simp [enterStartRel]) (by simp) (by simp [enterStartRel, hs])
  · exact .of_same_hist hp rfl

theorem startRel_appends {s t : State} (hs : s.st = .startRel) (ht : execStStartRel s = .next t) :
    AppendsPinOps s t := by
  have hp : polling s.st = false := hs ▸ rfl
  rcases execStStartRel_cases ht with ⟨-, rfl⟩ | ⟨-, rfl⟩
  · exact .of_no_poll hp [.setDir .input, .pullUp true] (by simp) (by simp [startListening]) (by simp) (by simp [hs])
  · exact .of_same_hist hp rfl

theorem retryWait_appends {s t : State} (hs : s.st = .retryWait) (ht : execStRetryWait s = .next t) :
    AppendsPinOps s t := by
  have hp : polling s.st = false := hs ▸ rfl
  rcases execStRetryWait_cases ht with ⟨-, rfl⟩ | ⟨-, rfl⟩
  · exact .of_no_poll hp [.setDir .output, .setLevel .low] (by simp) (by simp [enterStartLow]) (by simp)
      (by simp [enterStartLow, hs])
  · exact .of_same_hist hp rfl

theorem ackLow_appends {s t : State} (hs : s.st = .ackLow) (ht : execStAckLow s = .next t) : AppendsPinOps s t := by
  refine .of_poll (hs ▸ rfl) ?_
  rcases execStAckLow_cases ht with ⟨-, rfl⟩ | ⟨-, -, rfl⟩ | ⟨-, -, rfl⟩ | ⟨-, rfl⟩
  · exact .inl rfl
  · exact .inr ⟨rfl, by simp [hs]⟩
  · exact .inr ⟨rfl, by simp [fail, hs]⟩
  · exact .inl rfl

theorem ackHigh_appends {s t : State} (hs : s.st = .ackHigh) (ht : execStAckHigh s = .next t) :
    AppendsPinOps s t := by
  refine .of_poll (hs ▸ rfl) ?_
  rcases execStAckHigh_cases ht with ⟨-, rfl⟩ | ⟨-, -, rfl⟩ | ⟨-, -, rfl⟩ | ⟨-, rfl⟩
  · exact .inl rfl
  · exact .inr ⟨rfl, by simp [hs]⟩
  · exact .inr ⟨rfl, by simp [fail, hs]⟩
  · exact .inl rfl

theorem bitLow_appends {s t : State} (hs : s.st = .bitLow) (ht : execStBitLow s = .next t) : AppendsPinOps s t := by
  refine .of_poll (hs ▸ rfl) ?_
  rcases execStBitLow_cases ht with ⟨-, rfl⟩ | ⟨-, rfl⟩ | ⟨-, rfl⟩
  · exact .inl rfl
  · exact .inr ⟨rfl, by simp [fail, hs]⟩
  · exact .inl rfl

theorem measHigh_appends {s t : State} (hs : s.st = .measHigh) (ht : execStMeasHigh s = .next t) :
    AppendsPinOps s t := by
  refine .of_poll (hs ▸ rfl) ?_
  rcases execStMeasHigh_cases ht with ⟨-, -, rfl⟩ | ⟨-, -, rfl, -⟩ | ⟨-, -, rfl⟩ | ⟨-, -, rfl⟩
  · exact .inl rfl
  · rcases afterFall_cases s with ⟨-, ht⟩ | ⟨-, ht⟩ <;> rw [ht]
    · exact .inr ⟨rfl, by simp [hs]⟩
    · exact .inl rfl
  · exact .inr ⟨rfl, by simp [fail, hs]⟩
  · exact .inl rfl

theorem check_appends {s : State} (hs : s.st = .check) : AppendsPinOps s (validate s) := by
  refine .of_same_hist (hs ▸ rfl) ?_
  rcases validate_cases s with ⟨-, ht⟩ | ⟨-, ht⟩ <;> rw [ht] <;> rfl

theorem exec_st_appends {s t : State} (ht : exec (stInstr s.st) s = .next t) : AppendsPinOps s t := by
  rcases exec_st_cases ht with ⟨hs, ht⟩ | ⟨hs, ht⟩ | ⟨hs, ht⟩ | ⟨hs, ht⟩ | ⟨hs, ht⟩ | ⟨hs, ht⟩ | ⟨hs, ht⟩ | ⟨hs, ht⟩ |
    ⟨hs, rfl⟩
  · exact acceptCommand_appends (busy_of_rest hs) ht
  · exact startLow_appends hs ht
  · exact startRel_appends hs ht
  · exact ackLow_appends hs ht
  · exact ackHigh_appends hs ht
  · exact retryWait_appends hs ht
  · exact bitLow_appends hs ht
  · exact measHigh_appends hs ht
  · exact check_appends hs

/-- A relation of the block's registers that its state's operation establishes, whatever word the host holds, holds
from the beginning to the end of a step without a reset. -/
theorem step_relates {R : State → State → Prop} (hop : ∀ s t, exec (stInstr s.st) s = .next t → R s t)
    (hread : ∀ s t w n, R (s.setHostWord w n) t → R s t) (hpresent : ∀ s t, R s t → R s (present t))
    {s t : State} (hr : s.inp.rst = false) (ht : step s = .next t) : R s t := by
  obtain ⟨s1, u, h1, hu, rfl⟩ := step_cases hr ht
  apply hpresent
  rcases h1 with rfl | ⟨w, n, rfl⟩
  · exact hop s1 u hu
  · exact hread s u w n (hop _ u hu)

/-- Settles O51: the operations of each state, read first in the polling ones. -/
theorem stepAppendsItsPinOperations : Obligations.StepAppendsItsPinOperations := by
  unfold Obligations.StepAppendsItsPinOperations
  intro s t ht hr
  refine step_relates (R := AppendsPinOps) (fun _ _ h => exec_st_appends h) (fun _ _ _ _ h => h) ?_ hr ht
  intro s t h
  simpa only [AppendsPinOps, present_hist, present_st] using h

/-! ## The status register -/

/-- The operation of a state writes `code` only when it ends the command (R24, R109, R145). -/
theorem exec_st_code {s t : State} (ht : exec (stInstr s.st) s = .next t) : t.code = s.code ∨ t.busy = false := by
  rcases exec_st_cases ht with ⟨-, ht⟩ | ⟨-, ht⟩ | ⟨-, ht⟩ | ⟨-, ht⟩ | ⟨-, ht⟩ | ⟨-, ht⟩ | ⟨-, ht⟩ | ⟨-, ht⟩ | ⟨-, rfl⟩
  · rcases acceptCommand_cases ht with rfl | ⟨-, rfl⟩ | ⟨-, -, rfl⟩ | ⟨-, -, rfl⟩
    exacts [.inl rfl, .inr rfl, .inr rfl, .inl rfl]
  · rcases execStStartLow_cases ht with ⟨-, rfl⟩ | ⟨-, rfl⟩
    exacts [.inl rfl, .inl rfl]
  · rcases execStStartRel_cases ht with ⟨-, rfl⟩ | ⟨-, rfl⟩
    exacts [.inl rfl, .inl rfl]
  · rcases execStAckLow_cases ht with ⟨-, rfl⟩ | ⟨-, -, rfl⟩ | ⟨-, -, rfl⟩ | ⟨-, rfl⟩
    exacts [.inl rfl, .inl rfl, .inr rfl, .inl rfl]
  · rcases execStAckHigh_cases ht with ⟨-, rfl⟩ | ⟨-, -, rfl⟩ | ⟨-, -, rfl⟩ | ⟨-, rfl⟩
    exacts [.inl rfl, .inl rfl, .inr rfl, .inl rfl]
  · rcases execStRetryWait_cases ht with ⟨-, rfl⟩ | ⟨-, rfl⟩
    exacts [.inl rfl, .inl rfl]
  · rcases execStBitLow_cases ht with ⟨-, rfl⟩ | ⟨-, rfl⟩ | ⟨-, rfl⟩
    exacts [.inl rfl, .inr rfl, .inl rfl]
  · rcases execStMeasHigh_cases ht with ⟨-, -, rfl⟩ | ⟨-, -, rfl, -⟩ | ⟨-, -, rfl⟩ | ⟨-, -, rfl⟩
    · exact .inl rfl
    · rcases afterFall_cases s with ⟨-, ht⟩ | ⟨-, ht⟩ <;> rw [ht] <;> exact .inl rfl
    · exact .inr rfl
    · exact .inl rfl
  · rcases validate_cases s with ⟨-, ht⟩ | ⟨-, ht⟩ <;> rw [ht] <;> exact .inr rfl

/-- Settles O49: every write of `code` in a state's operation comes with a rest state. -/
theorem codeIsWrittenOnlyWhenACommandEnds : Obligations.CodeIsWrittenOnlyWhenACommandEnds := by
  unfold Obligations.CodeIsWrittenOnlyWhenACommandEnds
  intro s t ht hr hne
  have h : t.code = s.code ∨ t.busy = false :=
    step_relates (R := fun s t => t.code = s.code ∨ t.busy = false) (fun _ _ h => exec_st_code h)
      (fun _ _ _ _ h => h) (fun s t h => by simpa [State.busy] using h) hr ht
  exact h.resolve_left hne

end Sys2Proof.Machine
end

section
/-! PROOFS. What an instruction can do to the results and to `inited` (R25 to R27, R41), and what the host sees
(R35, R46). -/

namespace Sys2Proof.Machine

/-- The results and `inited` are those of before. -/
structure SameResults (s t : State) : Prop where
  hum_eq : t.hum = s.hum
  temp_eq : t.temp = s.temp
  rvalid_eq : t.rvalid = s.rvalid
  inited_eq : t.inited = s.inited

theorem SameResults.refl (s : State) : SameResults s s := ⟨rfl, rfl, rfl, rfl⟩

/-- The instruction is INIT, by itself or presented to a rest state. -/
def RunsInit (i : Instr) (s : State) : Prop :=
  i = .init ∨ (i = .stIdle ∨ i = .stDone ∨ i = .stFailed) ∧ s.inp.cmd = some 0b101#3

/-- `t` ends a validation that accepted its buffer (R111). -/
structure Accepted (s t : State) : Prop where
  st_eq : t.st = .done
  code_eq : t.code = .ok
  rvalid_eq : t.rvalid = true
  reading : ReadingOfBuffer t
  inited_eq : t.inited = s.inited

theorem acceptCommand_results {s t : State} (ht : acceptCommand s = .next t) :
    SameResults s t ∨ s.inp.cmd = some 0b101#3 ∧ t = afterInit s := by
  rcases acceptCommand_cases ht with rfl | ⟨-, rfl⟩ | ⟨hcmd, -, rfl⟩ | ⟨-, -, rfl⟩
  · exact .inl (.refl _)
  · exact .inl ⟨rfl, rfl, rfl, rfl⟩
  · exact .inr ⟨hcmd, rfl⟩
  · exact .inl ⟨rfl, rfl, rfl, rfl⟩

theorem validate_results (s : State) : SameResults s (validate s) ∨ Accepted s (validate s) := by
  rcases validate_cases s with ⟨hacc, ht⟩ | ⟨-, ht⟩ <;> rw [ht]
  · exact .inr ⟨rfl, rfl, rfl, ⟨rfl, rfl, hacc⟩, rfl⟩
  · exact .inl ⟨rfl, rfl, rfl, rfl⟩

/-! The states that neither accept a command nor validate leave the results and `inited` alone. -/

theorem startLow_results {s t : State} (ht : execStStartLow s = .next t) : SameResults s t := by
  rcases execStStartLow_cases ht with ⟨-, rfl⟩ | ⟨-, rfl⟩ <;> exact ⟨rfl, rfl, rfl, rfl⟩

theorem startRel_results {s t : State} (ht : execStStartRel s = .next t) : SameResults s t := by
  rcases execStStartRel_cases ht with ⟨-, rfl⟩ | ⟨-, rfl⟩ <;> exact ⟨rfl, rfl, rfl, rfl⟩

theorem ackLow_results {s t : State} (ht : execStAckLow s = .next t) : SameResults s t := by
  rcases execStAckLow_cases ht with ⟨-, rfl⟩ | ⟨-, -, rfl⟩ | ⟨-, -, rfl⟩ | ⟨-, rfl⟩ <;> exact ⟨rfl, rfl, rfl, rfl⟩

theorem ackHigh_results {s t : State} (ht : execStAckHigh s = .next t) : SameResults s t := by
  rcases execStAckHigh_cases ht with ⟨-, rfl⟩ | ⟨-, -, rfl⟩ | ⟨-, -, rfl⟩ | ⟨-, rfl⟩ <;> exact ⟨rfl, rfl, rfl, rfl⟩

theorem retryWait_results {s t : State} (ht : execStRetryWait s = .next t) : SameResults s t := by
  rcases execStRetryWait_cases ht with ⟨-, rfl⟩ | ⟨-, rfl⟩ <;> exact ⟨rfl, rfl, rfl, rfl⟩

theorem bitLow_results {s t : State} (ht : execStBitLow s = .next t) : SameResults s t := by
  rcases execStBitLow_cases ht with ⟨-, rfl⟩ | ⟨-, rfl⟩ | ⟨-, rfl⟩ <;> exact ⟨rfl, rfl, rfl, rfl⟩

theorem measHigh_results {s t : State} (ht : execStMeasHigh s = .next t) : SameResults s t := by
  rcases execStMeasHigh_cases ht with ⟨-, -, rfl⟩ | ⟨-, -, rfl, -⟩ | ⟨-, -, rfl⟩ | ⟨-, -, rfl⟩
  · exact ⟨rfl, rfl, rfl, rfl⟩
  · rcases afterFall_cases s with ⟨-, ht⟩ | ⟨-, ht⟩ <;> rw [ht] <;> exact ⟨rfl, rfl, rfl, rfl⟩
  · exact ⟨rfl, rfl, rfl, rfl⟩
  · exact ⟨rfl, rfl, rfl, rfl⟩

/-- An instruction leaves the results and `inited`, or is an INIT that is accepted, or a validation that accepts. -/
theorem exec_results {i : Instr} {s t : State} (ht : exec i s = .next t) :
    SameResults s t ∨ (RunsInit i s ∧ t = afterInit s) ∨
    ((i = .stCheck ∨ ∃ h f tt g c, i = .frame h f tt g c) ∧ Accepted s t) := by
  cases i with
  | nop ref | reserved ref => cases ht; exact .inl (.refl _)
  | init =>
    rcases execInit_cases ht with rfl | ⟨-, rfl⟩
    · exact .inl (.refl _)
    · exact .inr (.inl ⟨.inl rfl, rfl⟩)
  | initNull => rcases execInitNull_cases ht with rfl | ⟨-, rfl⟩ <;> exact .inl ⟨rfl, rfl, rfl, rfl⟩
  | readNull => rcases execReadNull_cases ht with rfl | ⟨-, rfl⟩ <;> exact .inl ⟨rfl, rfl, rfl, rfl⟩
  | read => rcases execRead_cases ht with rfl | ⟨-, -, rfl⟩ <;> exact .inl ⟨rfl, rfl, rfl, rfl⟩
  | stIdle | stDone | stFailed =>
    rcases acceptCommand_results ht with h | ⟨hcmd, rfl⟩
    · exact .inl h
    · exact .inr (.inl ⟨.inr ⟨by simp, hcmd⟩, rfl⟩)
  | stStartLow => exact .inl (startLow_results ht)
  | stStartRel => exact .inl (startRel_results ht)
  | stAckLow => exact .inl (ackLow_results ht)
  | stAckHigh => exact .inl (ackHigh_results ht)
  | stRetryWait => exact .inl (retryWait_results ht)
  | stBitLow => exact .inl (bitLow_results ht)
  | stMeasHigh => exact .inl (measHigh_results ht)
  | stCheck =>
    cases ht
    rcases validate_results s with h | h
    · exact .inl h
    · exact .inr (.inr ⟨.inl rfl, h⟩)
  | codeOk | codeNullReference | codeHandshakeTimeoutLow | codeHandshakeTimeoutHigh | codeBitStartTimeout
  | codeHighMeasureTimeout | codeChecksumMismatch => cases ht; exact .inl ⟨rfl, rfl, rfl, rfl⟩
  | codeReservedTimeoutBitSync | codeReservedTimeoutHighPulse => cases ht
  | frame h f tt g c =>
    cases ht
    rcases validate_results (s.setFb (Memory.ofBytes h f tt g c)) with hv | hv
    · exact .inl { hv with }
    · exact .inr (.inr ⟨.inr ⟨h, f, tt, g, c, rfl⟩, { hv with }⟩)
  | status _ _ _ _ _ | result _ _ | pinctl _ _ _ _ => cases ht; exact .inl ⟨rfl, rfl, rfl, rfl⟩

/-- Settles O47: of what an instruction can do to the results, only an accepting validation changes them. -/
theorem resultsChangeOnlyOnAcceptance : Obligations.ResultsChangeOnlyOnAcceptance := by
  unfold Obligations.ResultsChangeOnlyOnAcceptance
  intro i s t ht
  rcases exec_results ht with h | ⟨-, rfl⟩ | ⟨hi, h⟩
  · exact .inl ⟨h.hum_eq, h.temp_eq, h.rvalid_eq⟩
  · exact .inl ⟨rfl, rfl, rfl⟩
  · exact .inr ⟨hi, h.st_eq, h.code_eq, h.rvalid_eq, h.reading.hum_eq, h.reading.temp_eq, h.reading.accepted⟩

/-- Settles O48: of what an instruction can do to `inited`, only an accepted INIT changes it. -/
theorem onlyInitSetsInited : Obligations.OnlyInitSetsInited := by
  unfold Obligations.OnlyInitSetsInited
  intro i s t ht
  rcases exec_results ht with h | ⟨hi, rfl⟩ | ⟨-, h⟩
  · exact ⟨fun hs => h.inited_eq.trans hs, fun hs hn => by simp [h.inited_eq, hs] at hn⟩
  · exact ⟨fun _ => rfl, fun _ _ => hi⟩
  · exact ⟨fun hs => h.inited_eq.trans hs, fun hs hn => by simp [h.inited_eq, hs] at hn⟩

/-! ## The host's words -/

theorem SameToHost.statusWord_eq {s s' : State} (h : SameToHost s s') : s.statusWord = s'.statusWord := by
  simp [State.statusWord, State.busy, h.st_eq, h.rvalid_eq, h.inited_eq, h.code_eq]

/-- Once a reading was taken RESULT shows the results alone (R62). -/
theorem SameToHost.resultWord_eq {s s' : State} (h : SameToHost s s') (hhum : s.hum.isSome = true)
    (htemp : s.temp.isSome = true) : s.resultWord = s'.resultWord := by
  obtain ⟨hu, hhu⟩ := Option.isSome_iff_exists.1 hhum
  obtain ⟨te, hte⟩ := Option.isSome_iff_exists.1 htemp
  simp [State.resultWord, State.humByte, State.tempByte, ← h.hum_eq, ← h.temp_eq, hhu, hte]

theorem SameToHost.pinctlWord_eq {s s' : State} (h : SameToHost s s') : s.pinctlWord = s'.pinctlWord := by
  simp [State.pinctlWord, State.pinPd, h.pu_eq, h.out_eq, h.dir_eq]

/-- Settles O44: each word is a function of the registers R35 lists. -/
theorem hostWordsShowNoHiddenRegister : Obligations.HostWordsShowNoHiddenRegister := by
  unfold Obligations.HostWordsShowNoHiddenRegister
  intro s s' t t' h hresult
  refine ⟨fun ht ht' => ?_, fun hv ht ht' => ?_, fun ht ht' => ?_⟩ <;> cases ht <;> cases ht'
  · exact congrArg some h.statusWord_eq
  · exact congrArg some (h.resultWord_eq (hresult hv).1 (hresult hv).2)
  · exact congrArg some h.pinctlWord_eq

/-! ## The reset state -/

/-- Settles O12: the reset state is R34's table; its buffer lists no byte, so every one reads 0. -/
theorem resetStateHoldsTheTablesValues : Obligations.ResetStateHoldsTheTablesValues :=
  ⟨rfl, rfl, rfl, rfl, rfl, rfl, rfl, Memory.read_nil, rfl, rfl, rfl, rfl, rfl, rfl, rfl, rfl, rfl, rfl, rfl⟩

end Sys2Proof.Machine
end

section
/-! PROOFS. The host's port access (R44, R45, R176): it is served first, with the values before the step, and all it
leaves is the word the host holds. -/

namespace Sys2Proof.Machine

/-! ## What each port answers (R61 to R63, U8) -/

theorem hostPort_none {s : State} (h : s.inp.host = none) : hostPort s = .next s := by simp [hostPort, h]

theorem hostPort_status {s : State} (h : s.inp.host = some (.readPort 1)) :
    hostPort s = .next (s.setHostWord s.statusWord 0) := by simp [hostPort, h, State.statusInstr, exec, execStatus]

theorem hostPort_result {s : State} (h : s.inp.host = some (.readPort 2)) :
    hostPort s = .next (s.setHostWord s.resultWord (if s.rvalid then 0 else 1)) := by
  simp [hostPort, h, State.resultInstr, exec, execResult]

theorem hostPort_pinctl {s : State} (h : s.inp.host = some (.readPort 3)) :
    hostPort s = .next (s.setHostWord s.pinctlWord 0) := by simp [hostPort, h, State.pinctlInstr, exec, execPinctl]

theorem hostPort_outside {s : State} {p : Nat} (h : s.inp.host = some (.readPort p)) (hp : p = 0 ∨ 3 < p) :
    hostPort s = .refused .outsidePortInterface := by
  have h1 : p ≠ 1 := by omega
  have h2 : p ≠ 2 := by omega
  have h3 : p ≠ 3 := by omega
  simp [hostPort, h, h1, h2, h3]

theorem hostPort_write {s : State} {k : Nat} (h : s.inp.host = some (.writeAbove k)) :
    hostPort s = .refused .outsidePortInterface := by simp [hostPort, h]

theorem step_of_hostPort_next {s s1 : State} (h : hostPort s = .next s1) : step s = thenPresent (blockStep s1) := by
  rw [step, h, andThen]

theorem step_of_hostPort_refused {s : State} {r : Refusal} (h : hostPort s = .refused r) : step s = .refused r := by
  rw [step, h, andThen, thenPresent]

/-- Settles O10: such an access is refused by the port, and the step stops there. -/
theorem hostAccessOutsideTheInterfaceIsRefused : Obligations.HostAccessOutsideTheInterfaceIsRefused := by
  unfold Obligations.HostAccessOutsideTheInterfaceIsRefused
  intro s p k
  exact ⟨fun h hp => step_of_hostPort_refused (hostPort_outside h hp),
    fun h => step_of_hostPort_refused (hostPort_write h)⟩

/-! ## The host words as instructions: the fields they carry are not looked at -/

theorem exec_of_decode_status {w : Nat} {i : Instr} (h : decode .status w = .ok i) (s : State) :
    exec i s = .next (s.setHostWord s.statusWord 0) := by
  unfold decode decodeStatus at h
  split_ifs at h
  cases h
  rfl

theorem exec_of_decode_result {w : Nat} {i : Instr} (h : decode .result w = .ok i) (s : State) :
    exec i s = .next (s.setHostWord s.resultWord (if s.rvalid then 0 else 1)) := by
  unfold decode decodeResult at h
  split_ifs at h
  cases h
  rfl

theorem exec_of_decode_pinctl {w : Nat} {i : Instr} (h : decode .pinctl w = .ok i) (s : State) :
    exec i s = .next (s.setHostWord s.pinctlWord 0) := by
  unfold decode decodePinctl at h
  split_ifs at h
  cases h
  rfl

/-- Settles O8: each port does what the instruction its word decodes to does. -/
theorem stepServesTheHostReadBeforeTheBlock : Obligations.StepServesTheHostReadBeforeTheBlock := by
  unfold Obligations.StepServesTheHostReadBeforeTheBlock
  intro s i
  refine ⟨fun h hi => ?_, fun h hi => ?_, fun h hi => ?_⟩
  · rw [step, hostPort_status h, exec_of_decode_status hi]
  · rw [step, hostPort_result h, exec_of_decode_result hi]
  · rw [step, hostPort_pinctl h, exec_of_decode_pinctl hi]

/-! ## The block's own step does not look at the host's access (R44) -/

/-- The state with another host access presented to it. -/
def withHost (a : Option HostAccess) (s : State) : State := { s with inp := { s.inp with host := a } }

/-- An outcome with its next state changed, if it has one. -/
def mapNext (f : State → State) (o : Host.Outcome State Fault Refusal) : Host.Outcome State Fault Refusal :=
  match o with
  | .next t => .next (f t)
  | .fault r => .fault r
  | .refused r => .refused r

/-- The next step's inputs take the place of the host access. -/
theorem present_withHost (a : Option HostAccess) (s : State) : present (withHost a s) = present s := by
  unfold present
  cases he : s.env <;> simp [withHost, he]

theorem thenPresent_mapNext_withHost (a : Option HostAccess) (o : Host.Outcome State Fault Refusal) :
    thenPresent (mapNext (withHost a) o) = thenPresent o := by
  cases o with
  | next t => exact congrArg Host.Outcome.next (present_withHost a t)
  | fault r | refused r => rfl

section
variable (a : Option HostAccess) (s : State)

/-! The shared operations: each test and each write is the same with another host access. -/

theorem waitLevel_withHost (l : Level) (limit : Nat) : waitLevel l limit (withHost a s) = waitLevel l limit s := rfl

theorem measureHigh_withHost (limit : Nat) : measureHigh limit (withHost a s) = measureHigh limit s := rfl

theorem withHost_hsFail (e : ErrorKind) : withHost a (hsFail e s) = hsFail e (withHost a s) :=
  apply_ite (withHost a) (s.att.toNat + 1 < Config.nAttempts) _ _

theorem withHost_nextBit : withHost a (nextBit s) = nextBit (withHost a s) :=
  apply_ite (withHost a) (s.i.toNat = Config.nBits - 1) _ _

theorem withHost_validate : withHost a (validate s) = validate (withHost a s) :=
  apply_ite (withHost a) (accept (s.byteAt 0) (s.byteAt 1) (s.byteAt 2) (s.byteAt 3) (s.byteAt 4) = true) _ _

theorem withHost_storeBit (b : Bool) : mapNext (withHost a) (storeBit b s) = storeBit b (withHost a s) := by
  cases b with
  | false => rfl
  | true => exact apply_ite (mapNext (withHost a)) (slotByte s.i < Config.nBytes) _ _

theorem withHost_whenReady {o o' : Host.Outcome State Fault Refusal} (h : mapNext (withHost a) o = o') :
    mapNext (withHost a) (whenReady o s) = whenReady o' (withHost a s) :=
  h ▸ apply_ite (mapNext (withHost a)) (s.busy = true) _ _

/-- A fall poll is STORE_BIT and, if the byte exists, NEXT_BIT (R99). -/
theorem fallPoll_eq : fallPoll s = mapNext nextBit
    (storeBit (classify (elapsed s.inp.now s.tr)) (s.setDur (elapsed s.inp.now s.tr))) := rfl

theorem withHost_mapNext_nextBit (o : Host.Outcome State Fault Refusal) :
    mapNext (withHost a) (mapNext nextBit o) = mapNext nextBit (mapNext (withHost a) o) := by
  cases o with
  | next t => exact congrArg Host.Outcome.next (withHost_nextBit a t)
  | fault r | refused r => rfl

theorem withHost_fallPoll : mapNext (withHost a) (fallPoll s) = fallPoll (withHost a s) := by
  rw [fallPoll_eq, fallPoll_eq, withHost_mapNext_nextBit, withHost_storeBit]
  rfl

/-! The states' operations. -/

theorem withHost_acceptCommand : mapNext (withHost a) (acceptCommand s) = acceptCommand (withHost a s) := by
  cases hc : s.inp.cmd with
  | none => rw [acceptCommand_none s hc, acceptCommand_none (withHost a s) hc]; rfl
  | some w =>
    rw [acceptCommand_some s w hc, acceptCommand_some (withHost a s) w hc]
    rcases cmdWord_cases w with rfl | rfl | rfl | rfl | rfl | rfl | rfl | rfl
    · rfl
    · exact withHost_whenReady a s rfl
    · exact withHost_whenReady a s rfl
    · rfl
    · rfl
    · exact withHost_whenReady a s rfl
    · exact withHost_whenReady a s (apply_ite (mapNext (withHost a)) (s.inited = true) _ _)
    · rfl

theorem withHost_execStAckLow : mapNext (withHost a) (execStAckLow s) = execStAckLow (withHost a s) := by
  unfold execStAckLow
  rw [waitLevel_withHost]
  cases waitLevel .low Config.tAckLow s with
  | ok | stay => rfl
  | timeout => exact congrArg Host.Outcome.next (withHost_hsFail a s.readLine _)

theorem withHost_execStAckHigh : mapNext (withHost a) (execStAckHigh s) = execStAckHigh (withHost a s) := by
  unfold execStAckHigh
  rw [waitLevel_withHost]
  cases waitLevel .high Config.tAckHigh s with
  | ok | stay => rfl
  | timeout => exact congrArg Host.Outcome.next (withHost_hsFail a s.readLine _)

theorem withHost_execStBitLow : mapNext (withHost a) (execStBitLow s) = execStBitLow (withHost a s) := by
  unfold execStBitLow
  rw [waitLevel_withHost]
  cases waitLevel .low Config.tBitLow s <;> rfl

theorem withHost_execStMeasHigh : mapNext (withHost a) (execStMeasHigh s) = execStMeasHigh (withHost a s) := by
  unfold execStMeasHigh
  rw [measureHigh_withHost]
  cases measureHigh Config.tMeas s with
  | rise | timeout | stay => rfl
  | fall => exact withHost_fallPoll a s.readLine

theorem withHost_exec_st (x : St) :
    mapNext (withHost a) (exec (stInstr x) s) = exec (stInstr x) (withHost a s) := by
  cases x with
  | idle | done | failed => exact withHost_acceptCommand a s
  | startLow => exact congrArg Host.Outcome.next (apply_ite (withHost a) (delayOver Config.tStart s = true) _ _)
  | startRel => exact congrArg Host.Outcome.next (apply_ite (withHost a) (delayOver Config.tRelease s = true) _ _)
  | ackLow => exact withHost_execStAckLow a s
  | ackHigh => exact withHost_execStAckHigh a s
  | retryWait => exact congrArg Host.Outcome.next (apply_ite (withHost a) (delayOver Config.tRetry s = true) _ _)
  | bitLow => exact withHost_execStBitLow a s
  | measHigh => exact withHost_execStMeasHigh a s
  | check => exact congrArg Host.Outcome.next (withHost_validate a s)

theorem withHost_blockStep : mapNext (withHost a) (blockStep s) = blockStep (withHost a s) :=
  (apply_ite (mapNext (withHost a)) (s.inp.rst = true) _ _).trans
    (if_congr Iff.rfl rfl (withHost_exec_st a s s.st))

end

/-- A step whose host access left `s1` is the step from `s1` with no access. -/
theorem step_eq_step_withHost_none {s s1 : State} (h : hostPort s = .next s1) : step s = step (withHost none s1) := by
  calc step s = thenPresent (blockStep s1) := step_of_hostPort_next h
    _ = thenPresent (mapNext (withHost none) (blockStep s1)) := (thenPresent_mapNext_withHost none _).symm
    _ = thenPresent (blockStep (withHost none s1)) := by rw [withHost_blockStep]
    _ = step (withHost none s1) := (step_of_hostPort_next (hostPort_none rfl)).symm

/-- Settles O9: the port leaves the host's word, and the block's own step is the same without the access. -/
theorem hostReadDoesNotDisturbTheBlock : Obligations.HostReadDoesNotDisturbTheBlock := by
  unfold Obligations.HostReadDoesNotDisturbTheBlock
  intro s
  refine ⟨fun h => ?_, fun h hv => ?_, fun h => ?_⟩
  · exact step_eq_step_withHost_none (hostPort_status h)
  · have hport : hostPort s = .next (s.setHostWord s.resultWord 0) := by simpa [hv] using hostPort_result h
    exact step_eq_step_withHost_none hport
  · exact step_eq_step_withHost_none (hostPort_pinctl h)

end Sys2Proof.Machine
end

section
/-! PROOFS. The frame buffer (R36, R37, R39, R40, R101): which instructions leave it alone, what a fall poll does to
it, and the store outside it. -/

namespace Sys2Proof.Machine

/-! ## The frame: what leaves the buffer alone -/

theorem acceptCommand_fb {s t : State} (ht : acceptCommand s = .next t) : t.fb = s.fb := by
  rcases acceptCommand_cases ht with rfl | ⟨-, rfl⟩ | ⟨-, -, rfl⟩ | ⟨-, -, rfl⟩ <;> rfl

theorem validate_fb (s : State) : (validate s).fb = s.fb := by
  rcases validate_cases s with ⟨-, ht⟩ | ⟨-, ht⟩ <;> rw [ht] <;> rfl

/-- Every instruction but ACK_HIGH, MEAS_HIGH and a frame leaves the buffer. -/
theorem exec_fb {i : Instr} {s t : State} (ht : exec i s = .next t) (hack : i ≠ .stAckHigh) (hmeas : i ≠ .stMeasHigh)
    (hframe : ∀ h f tt g c, i ≠ .frame h f tt g c) : t.fb = s.fb := by
  cases i with
  | nop _ | reserved _ => cases ht; rfl
  | init => rcases execInit_cases ht with rfl | ⟨-, rfl⟩ <;> rfl
  | initNull => rcases execInitNull_cases ht with rfl | ⟨-, rfl⟩ <;> rfl
  | read => rcases execRead_cases ht with rfl | ⟨-, -, rfl⟩ <;> rfl
  | readNull => rcases execReadNull_cases ht with rfl | ⟨-, rfl⟩ <;> rfl
  | stIdle | stDone | stFailed => exact acceptCommand_fb ht
  | stStartLow => rcases execStStartLow_cases ht with ⟨-, rfl⟩ | ⟨-, rfl⟩ <;> rfl
  | stStartRel => rcases execStStartRel_cases ht with ⟨-, rfl⟩ | ⟨-, rfl⟩ <;> rfl
  | stAckLow => rcases execStAckLow_cases ht with ⟨-, rfl⟩ | ⟨-, -, rfl⟩ | ⟨-, -, rfl⟩ | ⟨-, rfl⟩ <;> rfl
  | stAckHigh => exact absurd rfl hack
  | stRetryWait => rcases execStRetryWait_cases ht with ⟨-, rfl⟩ | ⟨-, rfl⟩ <;> rfl
  | stBitLow => rcases execStBitLow_cases ht with ⟨-, rfl⟩ | ⟨-, rfl⟩ | ⟨-, rfl⟩ <;> rfl
  | stMeasHigh => exact absurd rfl hmeas
  | stCheck => cases ht; exact validate_fb s
  | codeOk | codeNullReference | codeHandshakeTimeoutLow | codeHandshakeTimeoutHigh | codeBitStartTimeout
  | codeHighMeasureTimeout | codeChecksumMismatch => cases ht; rfl
  | codeReservedTimeoutBitSync | codeReservedTimeoutHighPulse => cases ht
  | frame h f tt g c => exact absurd rfl (hframe h f tt g c)
  | status _ _ _ _ _ | result _ _ | pinctl _ _ _ _ => cases ht; rfl

/-- Settles O45: the whole buffer is left, and so is each of its bytes. -/
theorem onlyThreeOperationsTouchTheFrameBuffer : Obligations.OnlyThreeOperationsTouchTheFrameBuffer := by
  unfold Obligations.OnlyThreeOperationsTouchTheFrameBuffer
  intro i s t ht hack hmeas hframe a
  exact congrArg (Memory.read · a) (exec_fb ht hack hmeas hframe)

/-! ## MEAS_HIGH -/

/-- MEAS_HIGH does to the buffer what STORE_BIT of its slot does (R99, R101). -/
theorem execStMeasHigh_fb {s t : State} (ht : execStMeasHigh s = .next t) : ∃ b, t.fb = storedBit b s.i s.fb := by
  rcases execStMeasHigh_cases ht with ⟨-, -, rfl⟩ | ⟨-, -, rfl, -⟩ | ⟨-, -, rfl⟩ | ⟨-, -, rfl⟩
  · exact ⟨false, rfl⟩
  · refine ⟨classify (elapsed s.inp.now s.tr), ?_⟩
    rcases afterFall_cases s with ⟨-, ht⟩ | ⟨-, ht⟩ <;> rw [ht] <;> rfl
  · exact ⟨false, rfl⟩
  · exact ⟨false, rfl⟩

theorem read_storedBit_other {m : Memory} (hm : Memory.wf m = true) (b : Bool) {k : BitVec 6} {a : Nat}
    (ha : a ≠ slotByte k) : Memory.read (storedBit b k m) a = Memory.read m a := by
  cases b with
  | false => rfl
  | true => exact Memory.read_write_other hm ha _

theorem read_storedBit_same {m : Memory} (hm : Memory.wf m = true) (k : BitVec 6) :
    Memory.read (storedBit true k m) (slotByte k) = Memory.read m (slotByte k) ||| slotMask k :=
  Memory.read_write_same hm _ _

theorem storedBit_keeps_bit {m : Memory} (hm : Memory.wf m = true) (b : Bool) (k : BitVec 6) {a n : Nat}
    (hbit : (Memory.read m a).getLsbD n = true) : (Memory.read (storedBit b k m) a).getLsbD n = true := by
  cases b with
  | false => exact hbit
  | true =>
    by_cases ha : a = slotByte k
    · subst ha
      rw [read_storedBit_same hm, BitVec.getLsbD_or, hbit, Bool.true_or]
    · rwa [read_storedBit_other hm true ha]

/-- Settles O46: STORE_BIT is an OR into the slot's byte. -/
theorem measHighOnlySetsBitsOfItsByte : Obligations.MeasHighOnlySetsBitsOfItsByte := by
  unfold Obligations.MeasHighOnlySetsBitsOfItsByte
  intro s t hm ht
  obtain ⟨b, hfb⟩ := execStMeasHigh_fb ht
  unfold State.byteAt
  rw [hfb]
  exact ⟨fun a ha => read_storedBit_other hm b ha, fun a n hbit => storedBit_keeps_bit hm b s.i hbit⟩

/-- The store of a 1 at a byte that does not exist (R36, R39). -/
theorem storeBit_outside {s : State} (hi : 40 ≤ s.i.toNat) : storeBit true s = .fault .frameBufferAddress := by
  have hbyte : ¬ slotByte s.i < 5 := by unfold slotByte; omega
  simp [storeBit, hbyte]

/-- A fall poll with a 1 to store stops when the store does (R99). -/
theorem execStMeasHigh_fault {s : State} {r : Fault} (hhi : s.hi = true) (hlow : s.inp.lvl = .low)
    (hbit : classify (elapsed s.inp.now s.tr) = true)
    (hstore : storeBit true (s.readLine.setDur (elapsed s.inp.now s.tr)) = .fault r) : execStMeasHigh s = .fault r := by
  have hpoll : measureHigh Config.tMeas s = .fall := by simp [measureHigh, hhi, hlow]
  simp only [execStMeasHigh, hpoll, fallPoll, State.readLine_inp, State.readLine_tr, hbit, hstore]

/-- Settles O29: the fall poll classifies a 1, and STORE_BIT has no byte for it. -/
theorem storeBeyondTheFrameBufferFaults : Obligations.StoreBeyondTheFrameBufferFaults := by
  unfold Obligations.StoreBeyondTheFrameBufferFaults
  intro s hhi hlow hi hlong
  have hbit : classify (elapsed s.inp.now s.tr) = true := decide_eq_true hlong
  exact execStMeasHigh_fault hhi hlow hbit (storeBit_outside hi)

end Sys2Proof.Machine
end

section
/-! PROOFS. The encodings (R57, R60 to R66): which words each channel accepts, and the words of the tables. -/

namespace Sys2Proof

/-! ## The decoder on a word of its channel's width, and on a wider one -/

theorem lt_of_decode {ch : Channel} {w : Nat} {i : Instr} (h : decode ch w = .ok i) : w < 2 ^ ch.width := by
  unfold decode at h
  split_ifs at h with hwide
  exact Nat.lt_of_not_le hwide

theorem decode_cmd (w : CmdWord) : decode .cmd w.toNat = .ok (decodeCmd w) := by
  simp only [decode, Channel.width, Nat.not_le.2 w.isLt, if_false, BitVec.ofNat_toNat, BitVec.setWidth_eq]

theorem decode_frame (w : BitVec 40) : decode .frame w.toNat = .ok (decodeFrame w) := by
  simp only [decode, Channel.width, Nat.not_le.2 w.isLt, if_false, BitVec.ofNat_toNat, BitVec.setWidth_eq]

theorem decode_status (w : HostWord) : decode .status w.toNat = decodeStatus w := by
  simp only [decode, Channel.width, Nat.not_le.2 w.isLt, if_false, BitVec.ofNat_toNat, BitVec.setWidth_eq]

theorem decode_result (w : HostWord) : decode .result w.toNat = .ok (decodeResult w) := by
  simp only [decode, Channel.width, Nat.not_le.2 w.isLt, if_false, BitVec.ofNat_toNat, BitVec.setWidth_eq]

theorem decode_pinctl (w : HostWord) : decode .pinctl w.toNat = decodePinctl w := by
  simp only [decode, Channel.width, Nat.not_le.2 w.isLt, if_false, BitVec.ofNat_toNat, BitVec.setWidth_eq]

/-- What a channel accepts is decided by its own words: a wider one is refused. -/
theorem accepts_iff {ch : Channel} {p : Nat → Prop} (hwidth : ∀ w, p w → w < 2 ^ ch.width)
    (hword : ∀ w : BitVec ch.width, (∃ i, decode ch w.toNat = .ok i) ↔ p w.toNat) (w : Nat) :
    (∃ i, decode ch w = .ok i) ↔ p w := by
  by_cases hw : w < 2 ^ ch.width
  · simpa [Nat.mod_eq_of_lt hw] using hword (BitVec.ofNat ch.width w)
  · exact ⟨fun ⟨_, h⟩ => absurd (lt_of_decode h) hw, fun h => absurd (hwidth w h) hw⟩

theorem accepts_all {ch : Channel} (h : ∀ w : BitVec ch.width, ∃ i, decode ch w.toNat = .ok i) (w : Nat) :
    (∃ i, decode ch w = .ok i) ↔ w < 2 ^ ch.width :=
  accepts_iff (fun _ hw => hw) (fun w => iff_of_true (h w) w.isLt) w

/-! ## The codes: sixteen words each -/

theorem exists_ok_iff_isOk {ε α : Type} (e : Except ε α) : (∃ a, e = .ok a) ↔ e.isOk = true := by
  cases e <;> simp [Except.isOk, Except.toBool]

theorem decode_st_accepts (w : BitVec 4) : (∃ i, decode .st w.toNat = .ok i) ↔ w.toNat ≤ 10 := by
  rw [exists_ok_iff_isOk]
  revert w
  decide

theorem decode_code_accepts (w : BitVec 4) : (∃ i, decode .code w.toNat = .ok i) ↔ w.toNat ≤ 8 := by
  rw [exists_ok_iff_isOk]
  revert w
  decide

/-! ## PINCTL and STATUS: what the decoder asks of the fields, and the fields as numbers -/

theorem decodePinctl_accepts (w : HostWord) :
    (∃ i, decodePinctl w = .ok i) ↔ w.extractLsb' 4 12 = 0#12 ∧ w.getLsbD 3 = false := by
  unfold decodePinctl
  split_ifs with hzero hpd
  · simp [hzero]
  · simp [hpd]
  · exact iff_of_true ⟨_, rfl⟩ ⟨not_not.1 hzero, Bool.eq_false_iff.2 hpd⟩

theorem decodeStatus_accepts (w : HostWord) : (∃ i, decodeStatus w = .ok i) ↔
    w.extractLsb' 12 4 = 0#4 ∧ w.getLsbD 7 = false ∧ (w.extractLsb' 8 4).toNat ≤ 10 ∧
      (w.extractLsb' 0 4).toNat ≤ 6 := by
  unfold decodeStatus
  split_ifs with hzero hst hcode
  · exact iff_of_false (by simp) fun ⟨h, hbit, _⟩ => hzero.elim (absurd h) (Bool.eq_false_iff.1 hbit)
  · exact iff_of_false (by simp) fun ⟨_, _, h, _⟩ => Nat.not_le.2 hst h
  · exact iff_of_false (by simp) fun ⟨_, _, _, h⟩ => Nat.not_le.2 hcode h
  · obtain ⟨h, hbit⟩ := not_or.1 hzero
    exact iff_of_true ⟨_, rfl⟩
      ⟨not_not.1 h, Bool.eq_false_iff.2 hbit, Nat.le_of_not_lt hst, Nat.le_of_not_lt hcode⟩

theorem toNat_extract {n : Nat} (w : BitVec n) (start len : Nat) :
    (w.extractLsb' start len).toNat = w.toNat / 2 ^ start % 2 ^ len := by
  rw [BitVec.extractLsb'_toNat, Nat.shiftRight_eq_div_pow]

theorem extract_eq_zero_iff {n : Nat} (w : BitVec n) (start len : Nat) :
    w.extractLsb' start len = 0#len ↔ w.toNat / 2 ^ start % 2 ^ len = 0 := by
  rw [← toNat_extract, BitVec.toNat_eq, BitVec.toNat_zero]

theorem getLsbD_eq_false_iff {n : Nat} (w : BitVec n) (k : Nat) :
    w.getLsbD k = false ↔ w.toNat / 2 ^ k % 2 = 0 := by
  rw [← BitVec.testBit_toNat, Nat.testBit_eq_decide_div_mod_eq, decide_eq_false_iff_not, Nat.mod_two_not_eq_one]

theorem decode_pinctl_accepts (w : HostWord) : (∃ i, decode .pinctl w.toNat = .ok i) ↔ w.toNat < 8 := by
  have hw := w.isLt
  rw [decode_pinctl, decodePinctl_accepts, extract_eq_zero_iff, getLsbD_eq_false_iff]
  omega

theorem decode_status_accepts (w : HostWord) : (∃ i, decode .status w.toNat = .ok i) ↔
    w.toNat < 2 ^ 12 ∧ w.toNat / 128 % 2 = 0 ∧ w.toNat / 256 ≤ 10 ∧ w.toNat % 16 ≤ 6 := by
  have hw := w.isLt
  rw [decode_status, decodeStatus_accepts, extract_eq_zero_iff, getLsbD_eq_false_iff, toNat_extract, toNat_extract]
  omega

/-- Settles O3: a channel refuses what is wider than its words; CMD, frame and RESULT accept all of those, the other
channels what the lemmas above say. -/
theorem eachChannelAcceptsItsWordsAndNoOther : Obligations.EachChannelAcceptsItsWordsAndNoOther := by
  unfold Obligations.EachChannelAcceptsItsWordsAndNoOther
  refine ⟨accepts_all fun w => ⟨_, decode_cmd w⟩, accepts_iff (fun w h => ?_) decode_st_accepts,
    accepts_iff (fun w h => ?_) decode_code_accepts, accepts_all fun w => ⟨_, decode_frame w⟩,
    accepts_all fun w => ⟨_, decode_result w⟩, accepts_iff (fun w h => ?_) decode_pinctl_accepts,
    accepts_iff (fun w h => ?_) decode_status_accepts⟩
  all_goals
    simp only [Channel.width]
    omega

/-- Settles O4: the decoder evaluated on each word. -/
theorem wordsSpelledFromTheTablesDecode : Obligations.WordsSpelledFromTheTablesDecode :=
  ⟨rfl, rfl, rfl, rfl, rfl, rfl, rfl, rfl, rfl, rfl, rfl⟩

end Sys2Proof
end

section
/-! PROOFS. The frame (R57, R109) and the words the host reads (R61 to R63). -/

namespace Sys2Proof.Machine

/-! ## The frame -/

/-- A frame stands in the buffer and is validated by its own bytes (R57, R109). -/
theorem exec_frame (h f t g c : Byte) (s : State) : exec (.frame h f t g c) s = .next
    (if accept h f t g c then succeed ((s.setFb (Memory.ofBytes h f t g c)).setResult h t)
      else fail .checksumMismatch (s.setFb (Memory.ofBytes h f t g c))) := by
  obtain ⟨hh, hf, ht, hg, hc⟩ := Memory.read_ofBytes h f t g c
  simp only [exec, execFrame, validate, State.byteAt, State.setFb_fb, hh, hf, ht, hg, hc]

/-- A canonical buffer's own frame leaves the buffer, so it does what CHECK does. -/
theorem exec_frame_of_buffer {s : State} (h : Memory.wf s.fb = true) :
    exec (.frame (s.byteAt 0) (s.byteAt 1) (s.byteAt 2) (s.byteAt 3) (s.byteAt 4)) s = exec .stCheck s :=
  congrArg (fun m => Host.Outcome.next (validate (s.setFb m))) (Memory.ofBytes_read h)

/-- Settles O7: the buffer's word decodes to the frame of its five bytes, and that does what CHECK does. -/
theorem stepInCheckRunsTheFrameInTheBuffer : Obligations.StepInCheckRunsTheFrameInTheBuffer := by
  unfold Obligations.StepInCheckRunsTheFrameInTheBuffer
  intro s i hrst hhost hst hwf hi
  rw [decode_frame, packFrame_fields] at hi
  cases hi
  rw [step_eq_exec s hrst hhost, hst, exec_frame_of_buffer hwf]
  rfl

/-- Settles O37: the buffer of the five bytes reads as them, and the validation is the checksum's test. -/
theorem frameIsValidatedByItsChecksum : Obligations.FrameIsValidatedByItsChecksum := by
  unfold Obligations.FrameIsValidatedByItsChecksum
  intro h f t g c s
  obtain ⟨hh, hf, ht, hg, hc⟩ := Memory.read_ofBytes h f t g c
  refine ⟨Memory.ofBytes h f t g c, Memory.wf_ofBytes h f t g c, hh, hf, ht, hg, hc, fun hsum => ?_, fun hsum => ?_⟩
  · rw [exec_frame, if_pos ((accept_iff h f t g c).2 hsum)]
    rfl
  · rw [exec_frame, if_neg (mt (accept_iff h f t g c).1 hsum)]
    rfl

/-! ## STATUS -/

theorem statusWord_code {s : State} {c : Code} (h : s.code = c) :
    s.statusWord.extractLsb' 0 4 = encodeCode c := by
  subst h
  exact (packStatus_parts ..).1

theorem statusWord_st {s : State} {x : St} (h : s.st = x) : s.statusWord.extractLsb' 8 4 = encodeSt x := by
  subst h
  exact (packStatus_parts ..).2.1

/-- Settles O41: the word is packed from the registers, and its fields stand at their places. -/
theorem statusReadGivesTheStatusWord : Obligations.StatusReadGivesTheStatusWord := by
  unfold Obligations.StatusReadGivesTheStatusWord
  intro s a c v n b
  obtain ⟨-, -, hzero, hbusy, hinited, hrvalid, hbit7⟩ :=
    packStatus_parts (encodeSt s.st) (encodeCode s.code) s.rvalid s.inited s.busy
  exact ⟨s.statusWord, rfl, statusWord_code, statusWord_code, statusWord_code, statusWord_code, statusWord_code,
    statusWord_code, statusWord_code, hbusy, hinited, hrvalid, hbit7, statusWord_st, statusWord_st, statusWord_st,
    statusWord_st, statusWord_st, statusWord_st, statusWord_st, statusWord_st, statusWord_st, statusWord_st,
    statusWord_st, hzero⟩

/-! ## RESULT -/

theorem exec_result (t h : Byte) (s : State) :
    exec (.result t h) s = .next (s.setHostWord s.resultWord (if s.rvalid then 0 else 1)) := rfl

theorem resultWord_of_reading {s : State} {th hu : Byte} (htemp : s.temp = some th) (hhum : s.hum = some hu) :
    s.resultWord = packResult th hu := by
  simp only [State.resultWord, State.tempByte, State.humByte, htemp, hhum]

theorem packResult_parts (t h : Byte) :
    (packResult t h).extractLsb' 8 8 = t ∧ (packResult t h).extractLsb' 0 8 = h :=
  Instr.result.inj (packResult_fields t h)

/-- Settles O42: with a reading the word is packed from it and no free value is drawn; without one, one is. -/
theorem resultReadGivesTheResultWord : Obligations.ResultReadGivesTheResultWord := by
  unfold Obligations.ResultReadGivesTheResultWord
  intro s t h th hu
  refine ⟨fun hvalid htemp hhum => ?_, fun hvalid => ?_⟩
  · obtain ⟨htempField, hhumField⟩ := packResult_parts th hu
    refine ⟨packResult th hu, ?_, hhumField, htempField⟩
    rw [exec_result, resultWord_of_reading htemp hhum, if_pos hvalid]
    rfl
  · refine ⟨s.resultWord, s.fresh + 1, ?_⟩
    rw [exec_result, if_neg (Bool.eq_false_iff.1 hvalid)]
    rfl

/-! ## PINCTL -/

/-- The fields of a PINCTL word, each at its place (R63). -/
theorem packPinctl_parts (q u o d : Bool) :
    (packPinctl q u o d).getLsbD 0 = d ∧ (packPinctl q u o d).getLsbD 1 = o ∧ (packPinctl q u o d).getLsbD 2 = u ∧
    (packPinctl q u o d).getLsbD 3 = q ∧ (packPinctl q u o d).extractLsb' 4 12 = 0#12 := by
  revert q u o d
  decide

theorem dirBit_iff (d : Dir) : dirBit d = true ↔ d = .output := by cases d <;> simp [dirBit]

theorem levelBit_iff (l : Level) : levelBit l = true ↔ l = .high := by cases l <;> simp [levelBit]

/-- Settles O43: the word is packed from the pin's registers, and its fields stand at their places. -/
theorem pinctlReadGivesThePinWord : Obligations.PinctlReadGivesThePinWord := by
  unfold Obligations.PinctlReadGivesThePinWord
  intro s q u o d
  obtain ⟨hdir, hout, hpu, hpd, hzero⟩ :=
    packPinctl_parts s.pinPd s.pinPu (levelBit s.pinOut) (dirBit s.pinDir)
  refine ⟨s.pinctlWord, rfl, ?_, ?_, hpu, hpd, hzero⟩
  · rw [State.pinctlWord, hdir, dirBit_iff]
  · rw [State.pinctlWord, hout, levelBit_iff]

end Sys2Proof.Machine
end

section
/-! PROOFS. The states of the handshake (R86 to R93, R96): when each stays, and what it does when its wait ends. -/

namespace Sys2Proof.Machine

/-! ## The tests of the waits (R77 to R79) -/

theorem delayOver_of_le {d : Nat} {s : State} (h : d ≤ s.waited) : delayOver d s = true := (delayOver_iff d s).2 h

theorem not_delayOver_of_lt {d : Nat} {s : State} (h : s.waited < d) : ¬ delayOver d s = true := fun hd =>
  Nat.not_le_of_lt h ((delayOver_iff d s).1 hd)

theorem waitLevel_of_level {l : Level} {s : State} (h : s.inp.lvl = l) (limit : Nat) : waitLevel l limit s = .ok :=
  if_pos h

theorem waitLevel_of_timedOut {l : Level} {limit : Nat} {s : State} (h : s.inp.lvl ≠ l) (ht : limit < s.waited) :
    waitLevel l limit s = .timeout := by
  rcases waitLevel_cases l limit s with ⟨-, hl⟩ | ⟨hw, -, -⟩ | ⟨-, -, hin⟩
  · exact absurd hl h
  · exact hw
  · exact absurd ht (Nat.not_lt_of_le hin)

theorem waitLevel_of_waiting {l : Level} {limit : Nat} {s : State} (h : s.inp.lvl ≠ l) (ht : s.waited ≤ limit) :
    waitLevel l limit s = .stay := by
  rcases waitLevel_cases l limit s with ⟨-, hl⟩ | ⟨-, -, hover⟩ | ⟨hw, -, -⟩
  · exact absurd hl h
  · exact absurd hover (Nat.not_lt_of_le ht)
  · exact hw

/-! ## The procedures, as the registers they write -/

theorem enterStartLow_eq (s : State) : enterStartLow s = { s with
    pinDir := .output, pinOut := .low, t0 := s.inp.now, st := .startLow,
    hist := s.hist ++ [⟨.setDir .output, s.inp.now⟩, ⟨.setLevel .low, s.inp.now⟩] } := by
  rw [List.append_cons]
  rfl

theorem startListening_enter_ackLow (s : State) : (startListening s).enter .ackLow = { s with
    pinDir := .input, pinPu := true, t0 := s.inp.now, st := .ackLow,
    hist := s.hist ++ [⟨.setDir .input, s.inp.now⟩, ⟨.pullUp true, s.inp.now⟩] } := by
  rw [List.append_cons]
  rfl

section
variable {s : State} {l : Level} (hl : s.inp.lvl = l)
include hl

theorem readLine_of_level : s.readLine = { s with hist := s.hist ++ [⟨.readLine l, s.inp.now⟩] } := by
  subst hl
  rfl

/-- HS_FAIL after the first attempt's last read: CLEANUP and the wait for the retry (R92). -/
theorem hsFail_readLine_first (e : ErrorKind) (ha : s.att = 0#1) : hsFail e s.readLine = { s with
    pinPu := false, att := 1#1, t0 := s.inp.now, st := .retryWait,
    hist := s.hist ++ [⟨.readLine l, s.inp.now⟩, ⟨.pullUp false, s.inp.now⟩] } := by
  rw [List.append_cons, hsFail_first e s.readLine ha, readLine_of_level hl]
  rfl

/-- HS_FAIL after the second attempt's last read: CLEANUP and the error (R92). -/
theorem hsFail_readLine_last (e : ErrorKind) (ha : s.att = 1#1) : hsFail e s.readLine = { s with
    pinPu := false, code := .error e, st := .failed,
    hist := s.hist ++ [⟨.readLine l, s.inp.now⟩, ⟨.pullUp false, s.inp.now⟩] } := by
  have hlast : s.readLine.att ≠ 0#1 := fun h0 => absurd (ha.symm.trans h0) (by decide)
  rw [List.append_cons, hsFail_last e s.readLine hlast, readLine_of_level hl]
  rfl

end

/-! ## The delays -/

/-- Settles O21: the two sides of the delay's test. -/
theorem startLowHoldsTheStartPulse : Obligations.StartLowHoldsTheStartPulse := by
  unfold Obligations.StartLowHoldsTheStartPulse
  exact fun s => ⟨fun h => congrArg Host.Outcome.next (if_pos (delayOver_of_le h)),
    fun h => congrArg Host.Outcome.next (if_neg (not_delayOver_of_lt h))⟩

/-- Settles O22: the two sides of the delay's test, with LISTEN at the delay's end. -/
theorem startRelEndsInListening : Obligations.StartRelEndsInListening := by
  unfold Obligations.StartRelEndsInListening
  refine fun s => ⟨fun h => ?_, fun h => congrArg Host.Outcome.next (if_neg (not_delayOver_of_lt h))⟩
  rw [← startListening_enter_ackLow]
  exact congrArg Host.Outcome.next (if_pos (delayOver_of_le h))

/-- Settles O25: the two sides of the sleep's test, with `enter(START_LOW)` at its end. -/
theorem retryWaitEndsInTheNextAttempt : Obligations.RetryWaitEndsInTheNextAttempt := by
  unfold Obligations.RetryWaitEndsInTheNextAttempt
  refine fun s => ⟨fun h => ?_, fun h => congrArg Host.Outcome.next (if_neg (not_delayOver_of_lt h))⟩
  rw [← enterStartLow_eq]
  exact congrArg Host.Outcome.next (if_pos (delayOver_of_le h))

/-! ## The polls of the acknowledgment -/

/-- Settles O23: the poll's three answers, a timeout being a retry or the error by the attempt. -/
theorem ackLowPollsForTheLowPhase : Obligations.AckLowPollsForTheLowPhase := by
  unfold Obligations.AckLowPollsForTheLowPhase
  intro s
  simp only [exec, execStAckLow]
  have hne (hl : s.inp.lvl = .high) : s.inp.lvl ≠ .low := by simp [hl]
  refine ⟨fun hl => ?_, fun hl ht ha => ?_, fun hl ht ha => ?_, fun hl ht => ?_⟩
  · simp only [waitLevel_of_level hl, readLine_of_level hl]
    rfl
  · simp only [waitLevel_of_timedOut (hne hl) ht, hsFail_readLine_first hl .handshakeTimeoutLow ha]
  · simp only [waitLevel_of_timedOut (hne hl) ht, hsFail_readLine_last hl .handshakeTimeoutLow ha]
  · simp only [waitLevel_of_waiting (hne hl) ht, readLine_of_level hl]

/-- Settles O24: the poll's three answers, HS_OK with every byte at 0, a timeout being a retry or the error by the
attempt. -/
theorem ackHighPollsForTheHighPhase : Obligations.AckHighPollsForTheHighPhase := by
  unfold Obligations.AckHighPollsForTheHighPhase
  intro s
  simp only [exec, execStAckHigh]
  have hne (hl : s.inp.lvl = .low) : s.inp.lvl ≠ .high := by simp [hl]
  refine ⟨fun hl => ⟨fun _ => rfl, ?_⟩, fun hl ht ha => ?_, fun hl ht ha => ?_, fun hl ht => ?_⟩
  · simp only [waitLevel_of_level hl, readLine_of_level hl]
    rfl
  · simp only [waitLevel_of_timedOut (hne hl) ht, hsFail_readLine_first hl .handshakeTimeoutHigh ha]
  · simp only [waitLevel_of_timedOut (hne hl) ht, hsFail_readLine_last hl .handshakeTimeoutHigh ha]
  · simp only [waitLevel_of_waiting (hne hl) ht, readLine_of_level hl]

end Sys2Proof.Machine
end

section
/-! PROOFS. The bit loop (R98 to R102, R105, R106, R108): its two polling states, STORE_BIT of a slot, the three polls
of a bit-slot, the slots received, and the accuracy of the measurement. -/

namespace Sys2Proof.Machine

/-! ## CLASSIFY (R100) -/

theorem classify_of_long {d : Time} (h : 50 < d.toNat) : classify d = true := decide_eq_true h

theorem classify_of_short {d : Time} (h : d.toNat ≤ 50) : classify d = false := decide_eq_false (Nat.not_lt_of_le h)

/-- Settles O30: the two sides of the threshold. -/
theorem classifyComparesWithTheThreshold : Obligations.ClassifyComparesWithTheThreshold :=
  ⟨fun _ => ⟨classify_of_long, classify_of_short⟩, classify_of_short (by decide), classify_of_long (by decide)⟩

/-! ## STORE_BIT (R101) -/

/-- At a slot that exists STORE_BIT has a next state. -/
theorem storeBit_of_slot {s : State} (hi : s.i.toNat ≤ 39) (b : Bool) :
    storeBit b s = .next (s.setFb (storedBit b s.i s.fb)) := by
  cases b with
  | false => rfl
  | true => exact if_pos (slotByte_lt hi)

/-- Settles O31: the buffer STORE_BIT leaves, slot by slot and as the slot's byte. -/
theorem storeBitSetsItsSlotAndNoOther : Obligations.StoreBitSetsItsSlotAndNoOther := by
  unfold Obligations.StoreBitSetsItsSlotAndNoOther
  intro s hi hwf
  exact ⟨rfl, storedBit true s.i s.fb, storeBit_of_slot hi true, storedBit_wf hwf hi true,
    fun k _ => slotValue_storedBit hwf s.i k true, read_storedBit_same hwf s.i⟩

/-! ## The polls -/

/-- An error raised after a poll's read and CLEANUP, as the registers it writes (R103, R145). -/
theorem fail_cleanup_readLine {s : State} {l : Level} (hl : s.inp.lvl = l) (e : ErrorKind) :
    fail e (cleanup s.readLine) = { s with
      pinPu := false, code := .error e, st := .failed,
      hist := s.hist ++ [⟨.readLine l, s.inp.now⟩, ⟨.pullUp false, s.inp.now⟩] } := by
  rw [List.append_cons, readLine_of_level hl]
  rfl

theorem execStBitLow_low {s : State} (hl : s.inp.lvl = .low) : execStBitLow s = .next (enterMeasHigh s.readLine) := by
  simp only [execStBitLow, waitLevel_of_level hl]

/-- Settles O26: the poll's three answers. -/
theorem bitLowPollsForTheSlotsBeginning : Obligations.BitLowPollsForTheSlotsBeginning := by
  unfold Obligations.BitLowPollsForTheSlotsBeginning
  intro s
  simp only [exec]
  have hne (hl : s.inp.lvl = .high) : s.inp.lvl ≠ .low := by simp [hl]
  refine ⟨fun hl => ?_, fun hl ht => ?_, fun hl ht => ?_⟩
  · rw [execStBitLow_low hl, readLine_of_level hl]
    rfl
  · simp only [execStBitLow, waitLevel_of_timedOut (hne hl) ht, fail_cleanup_readLine hl]
  · simp only [execStBitLow, waitLevel_of_waiting (hne hl) ht, readLine_of_level hl]

/-- A poll of MEAS_HIGH that is neither the rise nor the fall poll (R80). -/
abbrev NoEdge (s : State) : Prop := s.hi = false ∧ s.inp.lvl = .low ∨ s.hi = true ∧ s.inp.lvl = .high

theorem measureHigh_of_noEdge {s : State} (h : NoEdge s) (limit : Nat) :
    measureHigh limit s = if timedOut limit s then .timeout else .stay := by
  rcases h with ⟨hhi, hl⟩ | ⟨hhi, hl⟩ <;> simp [measureHigh, hhi, hl]

theorem execStMeasHigh_rise {s : State} (hhi : s.hi = false) (hl : s.inp.lvl = .high) :
    execStMeasHigh s = .next ((s.readLine.setHi true).setTr s.inp.now) := by
  have hpoll : measureHigh Config.tMeas s = .rise := by simp [measureHigh, hhi, hl]
  simp only [execStMeasHigh, hpoll]

/-- Settles O27: the rise poll, and the two sides of the time limit where the poll finds no edge. -/
theorem measHighFindsTheRiseOrTimesOut : Obligations.MeasHighFindsTheRiseOrTimesOut := by
  unfold Obligations.MeasHighFindsTheRiseOrTimesOut
  intro s
  simp only [exec]
  refine ⟨fun hhi hl => ?_, fun hedge ht => ?_, fun hedge ht => ?_⟩
  · rw [execStMeasHigh_rise hhi hl, readLine_of_level hl]
    rfl
  · have hover : timedOut Config.tMeas s = true := decide_eq_true ht
    simp only [execStMeasHigh, measureHigh_of_noEdge hedge, hover, if_true, fail_cleanup_readLine rfl]
  · have hin : timedOut Config.tMeas s = false := decide_eq_false (Nat.not_lt_of_le ht)
    simp only [execStMeasHigh, measureHigh_of_noEdge hedge, hin, Bool.false_eq_true, if_false]
    rfl

/-! ## The fall poll (R99 to R102) -/

/-- At a slot that exists the fall poll has a next state. -/
theorem execStMeasHigh_fall_of_slot {s : State} (hhi : s.hi = true) (hl : s.inp.lvl = .low) (hi : s.i.toNat ≤ 39) :
    execStMeasHigh s = .next (afterFall s) := execStMeasHigh_fall s hhi hl fun _ => slotByte_lt hi

theorem afterFall_last {s : State} (hi : s.i.toNat = 39) : afterFall s = (cleanup (fallStored s)).goto .check :=
  nextBit_last (fallStored s) (BitVec.eq_of_toNat_eq hi)

theorem afterFall_more {s : State} (hi : s.i.toNat < 39) :
    afterFall s = ((fallStored s).setIndex (s.i + 1#6)).enter .bitLow :=
  nextBit_more (fallStored s) fun h => absurd (congrArg BitVec.toNat h) (Nat.ne_of_lt hi)

/-- What both ways of NEXT_BIT leave alone is what STORE_BIT left. -/
theorem afterFall_keeps {α : Type} (f : State → α) (s : State)
    (hlast : f ((cleanup (fallStored s)).goto .check) = f (fallStored s))
    (hmore : f (((fallStored s).setIndex (s.i + 1#6)).enter .bitLow) = f (fallStored s)) :
    f (afterFall s) = f (fallStored s) := by
  rcases afterFall_cases s with ⟨-, ht⟩ | ⟨-, ht⟩ <;> rw [ht]
  · exact hlast
  · exact hmore

@[simp] theorem afterFall_fb (s : State) :
    (afterFall s).fb = storedBit (classify (elapsed s.inp.now s.tr)) s.i s.fb := afterFall_keeps State.fb s rfl rfl
@[simp] theorem afterFall_dur (s : State) : (afterFall s).dur = elapsed s.inp.now s.tr :=
  afterFall_keeps State.dur s rfl rfl
@[simp] theorem afterFall_code (s : State) : (afterFall s).code = s.code := afterFall_keeps State.code s rfl rfl
@[simp] theorem afterFall_hum (s : State) : (afterFall s).hum = s.hum := afterFall_keeps State.hum s rfl rfl
@[simp] theorem afterFall_temp (s : State) : (afterFall s).temp = s.temp := afterFall_keeps State.temp s rfl rfl
@[simp] theorem afterFall_rvalid (s : State) : (afterFall s).rvalid = s.rvalid :=
  afterFall_keeps State.rvalid s rfl rfl
@[simp] theorem afterFall_env (s : State) : (afterFall s).env = s.env := afterFall_keeps State.env s rfl rfl

/-- Settles O28: the buffer is STORE_BIT's of the measured bit, and NEXT_BIT goes on by the slot. -/
theorem fallPollStoresTheBitAndMovesOn : Obligations.FallPollStoresTheBitAndMovesOn := by
  unfold Obligations.FallPollStoresTheBitAndMovesOn
  intro s hhi hl hi hwf
  simp only [exec, execStMeasHigh_fall_of_slot hhi hl hi]
  refine ⟨storedBit (classify (elapsed s.inp.now s.tr)) s.i s.fb, fun hmore => ?_, fun hlast => ?_, fun hshort => ?_,
    fun hlong => ?_⟩
  · rw [afterFall_more hmore, fallStored, readLine_of_level hl]
    rfl
  · rw [List.append_cons, afterFall_last hlast, fallStored, readLine_of_level hl]
    rfl
  · rw [elapsed, classify_of_short hshort]
    rfl
  · rw [elapsed, classify_of_long hlong]
    exact ⟨fun a ha => read_storedBit_other hwf true ha, read_storedBit_same hwf s.i⟩

/-- Settles O34: the duration is the difference of the two polls' times, which the premises bound on both sides. -/
theorem measuredWidthIsWithinTheSamplingGap : Obligations.MeasuredWidthIsWithinTheSamplingGap := by
  unfold Obligations.MeasuredWidthIsWithinTheSamplingGap
  intro s a b g hhi hl hi hwf harise hrise hbfall hfall horder hab
  have hdur : (elapsed s.inp.now s.tr).toNat = s.inp.now.toNat - s.tr.toNat := BitVec.toNat_sub_of_le horder
  refine ⟨afterFall s, execStMeasHigh_fall_of_slot hhi hl hi, ?_, ?_, fun hwidth hg => ?_, fun hwidth hg => ?_⟩
  · rw [afterFall_dur, hdur]
    omega
  · rw [afterFall_dur, hdur]
    omega
  · rw [afterFall_fb, classify_of_short (by omega)]
    rfl
  · rw [afterFall_fb, classify_of_long (by omega), slotValue_storedBit hwf]
    simp

/-! ## One bit-slot, polled three times (R105) -/

theorem step_of_poll {s u : State} {now : Time} {l : Level} (hinp : s.inp = pollInput now l)
    (hop : exec (stInstr s.st) s = .next u) : step s = .next (present u) := by
  rw [step_eq_exec s (by rw [hinp]; rfl) (by rw [hinp]; rfl), hop, thenPresent]

theorem present_inputs {s : State} {e : Input} {more : List Input} (h : s.env = e :: more) :
    (present s).inp = e ∧ (present s).env = more := by
  rw [present_of_cons s e more h]
  exact ⟨rfl, rfl⟩

/-- The 0 that begins a bit-slot (R98). -/
theorem step_bitLow_low {s : State} {now : Time} {e : Input} {more : List Input} (hst : s.st = .bitLow)
    (hinp : s.inp = pollInput now .low) (henv : s.env = e :: more) :
    step s = .next { enterMeasHigh s.readLine with inp := e, env := more } := by
  have hop : exec (stInstr s.st) s = .next (enterMeasHigh s.readLine) := by
    rw [hst]
    exact execStBitLow_low (by rw [hinp]; rfl)
  rw [step_of_poll hinp hop, present_of_cons (enterMeasHigh s.readLine) e more henv]

/-- The rise poll (R99). -/
theorem step_measHigh_rise {s : State} {now : Time} {e : Input} {more : List Input} (hst : s.st = .measHigh)
    (hhi : s.hi = false) (hinp : s.inp = pollInput now .high) (henv : s.env = e :: more) :
    step s = .next { (s.readLine.setHi true).setTr s.inp.now with inp := e, env := more } := by
  have hop : exec (stInstr s.st) s = .next ((s.readLine.setHi true).setTr s.inp.now) := by
    rw [hst]
    exact execStMeasHigh_rise hhi (by rw [hinp]; rfl)
  rw [step_of_poll hinp hop, present_of_cons ((s.readLine.setHi true).setTr s.inp.now) e more henv]

/-- The fall poll (R99). -/
theorem step_measHigh_fall {s : State} {now : Time} (hst : s.st = .measHigh) (hhi : s.hi = true)
    (hinp : s.inp = pollInput now .low) (hi : s.i.toNat ≤ 39) : step s = .next (present (afterFall s)) := by
  refine step_of_poll hinp ?_
  rw [hst]
  exact execStMeasHigh_fall_of_slot hhi (by rw [hinp]; rfl) hi

/-- The state in which a sampled slot's fall poll finds the block, its first two polls made. -/
def SlotSample.beforeFall (x : SlotSample) (rest : List Input) (s : State) : State :=
  { s with
    st := .measHigh, hi := true, t0 := x.low, tr := x.rise,
    hist := s.hist ++ [⟨.readLine .low, x.low⟩] ++ [⟨.readLine .high, x.rise⟩],
    inp := pollInput x.fall .low, env := rest }

theorem SlotSample.stepsTo_beforeFall {s : State} {x : SlotSample} {rest : List Input} (hst : s.st = .bitLow)
    (hin : s.inp :: s.env = x.inputs ++ rest) : stepsTo 2 s (x.beforeFall rest s) := by
  obtain ⟨hinp, henv⟩ := List.cons.inj hin
  refine ⟨_, step_bitLow_low hst hinp henv, _, step_measHigh_rise rfl rfl rfl rfl, ?_⟩
  simp only [enterMeasHigh, State.readLine, hinp]
  rfl

/-- The state after a sampled slot. -/
def SlotSample.after (x : SlotSample) (rest : List Input) (s : State) : State :=
  present (afterFall (x.beforeFall rest s))

theorem SlotSample.stepsTo_after {s : State} {x : SlotSample} {rest : List Input} (hst : s.st = .bitLow)
    (hi : s.i.toNat ≤ 39) (hin : s.inp :: s.env = x.inputs ++ rest) : stepsTo 3 s (x.after rest s) := by
  have hfall : step (x.beforeFall rest s) = .next (x.after rest s) := step_measHigh_fall rfl rfl rfl hi
  exact stepsTo_trans (n := 1) (SlotSample.stepsTo_beforeFall hst hin) ⟨_, hfall, rfl⟩

section
variable (x : SlotSample) (rest : List Input) {s : State}

theorem SlotSample.after_fb : (x.after rest s).fb = storedBit x.value s.i s.fb :=
  (present_fb _).trans (afterFall_fb _)

theorem SlotSample.slotValue_after (hwf : Memory.wf s.fb = true) (hzero : slotValue s.fb s.i.toNat = false)
    (k : Nat) : slotValue (x.after rest s).fb k = if k = s.i.toNat then x.value else slotValue s.fb k := by
  rw [SlotSample.after_fb, slotValue_storedBit hwf]
  split_ifs with hk
  · simp [hk, hzero]
  · simp [hk]

theorem SlotSample.after_more (hi : s.i.toNat < 39) : (x.after rest s).st = .bitLow ∧
    (x.after rest s).i.toNat = s.i.toNat + 1 ∧ (x.after rest s).pinPu = s.pinPu := by
  have hmore : (x.beforeFall rest s).i.toNat < 39 := hi
  rw [SlotSample.after, present_st, present_i, present_pinPu, afterFall_more hmore]
  exact ⟨rfl, next_index hi.le, rfl⟩

theorem SlotSample.after_last (hi : s.i.toNat = 39) : (x.after rest s).st = .check ∧
    (x.after rest s).i = s.i ∧ (x.after rest s).pinPu = false := by
  have hlast : (x.beforeFall rest s).i.toNat = 39 := hi
  rw [SlotSample.after, present_st, present_i, present_pinPu, afterFall_last hlast]
  exact ⟨rfl, rfl, rfl⟩

theorem SlotSample.after_inputs {e : Input} {more : List Input} (h : rest = e :: more) :
    (x.after rest s).inp = e ∧ (x.after rest s).env = more := present_inputs ((afterFall_env _).trans h)

end

/-- Settles O32: the slot's three polls lead to `SlotSample.after`, whose registers the lemmas above read. -/
theorem threePollsReceiveABitSlot : Obligations.ThreePollsReceiveABitSlot := by
  unfold Obligations.ThreePollsReceiveABitSlot
  intro s x rest hst hi hwf hzero hin
  refine ⟨x.after rest s, SlotSample.stepsTo_after hst hi hin, ?_, fun _ _ h => x.after_inputs rest h,
    fun k _ => x.slotValue_after rest hwf hzero k, x.after_more rest, x.after_last rest, ?_⟩
  · rw [SlotSample.after_fb]
    exact storedBit_wf hwf hi _
  · simp only [SlotSample.after, present_dur, present_code, present_hum, present_temp, present_rvalid, afterFall_dur,
      afterFall_code, afterFall_hum, afterFall_temp, afterFall_rvalid]
    exact ⟨rfl, rfl, rfl, rfl, rfl⟩

/-! ## The slots received, step by step (R96, R100 to R102, R106) -/

theorem slotValue_nil (k : Nat) : slotValue [] k = false := BitVec.getLsbD_zero

/-- HS_OK begins the bit loop with no slot received. -/
theorem SlotsReceived.hsOk (s : State) : SlotsReceived [] (hsOk s) where
  count _ := rfl
  full h := absurd h (by simp [Machine.hsOk])
  value k d h := absurd h (by simp)
  ahead k _ _ := slotValue_nil k

theorem SlotsReceived.present {ds : List Time} {s : State} (h : SlotsReceived ds s) :
    SlotsReceived ds (present s) := by
  obtain ⟨inp, env, n, hp⟩ := present_frame s
  rw [hp]
  exact { h with }

/-- What leaves the index and the buffer, and does not lead to CHECK, keeps the slots received. -/
theorem SlotsReceived.of_same_slots {ds : List Time} {s t : State} (h : SlotsReceived ds s)
    (hs : s.st = .bitLow ∨ s.st = .measHigh) (hi : t.i = s.i) (hfb : t.fb = s.fb) (ht : t.st ≠ .check) :
    SlotsReceived ds t where
  count _ := hi ▸ h.count hs
  full hc := absurd hc ht
  value := hfb ▸ h.value
  ahead := hfb ▸ h.ahead

/-- A fall poll adds the duration it measured. -/
theorem SlotsReceived.afterFall {ds : List Time} {s : State} (h : SlotsReceived ds s) (hs : s.st = .measHigh)
    (hi : s.i.toNat ≤ 39) (hwf : Memory.wf s.fb = true) :
    SlotsReceived (ds ++ [s.inp.now - s.tr]) (afterFall s) := by
  have hlen : ds.length = s.i.toNat := h.count (.inr hs)
  have hslot (k : Nat) : slotValue (Machine.afterFall s).fb k =
      ((decide (50 < (s.inp.now - s.tr).toNat) && decide (k = s.i.toNat)) || slotValue s.fb k) := by
    rw [afterFall_fb, slotValue_storedBit hwf]
    rfl
  refine ⟨fun hst => ?_, fun hst => ?_, fun k d hd => ?_, fun k hk hk40 => ?_⟩
  · rcases afterFall_cases s with ⟨-, ht⟩ | ⟨-, ht⟩ <;> rw [ht] at hst ⊢
    · simp at hst
    · simp [hlen, fallStored, next_index hi]
  · rcases afterFall_cases s with ⟨hlast, ht⟩ | ⟨-, ht⟩ <;> rw [ht] at hst
    · simp [hlen, hlast]
    · simp at hst
  · rcases Nat.lt_trichotomy k ds.length with hk | rfl | hk
    · have hne : k ≠ s.i.toNat := by omega
      rw [List.getElem?_append_left hk] at hd
      simp only [hslot, hne, decide_false, Bool.and_false, Bool.false_or, h.value k d hd]
    · have hzero : slotValue s.fb s.i.toNat = false := h.ahead _ hlen.le (Nat.lt_succ_of_le hi)
      rw [List.getElem?_concat_length] at hd
      cases hd
      simp only [hslot, hlen, hzero, decide_true, Bool.and_true, Bool.or_false]
    · rw [List.getElem?_eq_none (by simpa using hk)] at hd
      cases hd
  · have hk' : ds.length + 1 ≤ k := by simpa using hk
    have hne : k ≠ s.i.toNat := by omega
    simp only [hslot, hne, decide_false, Bool.and_false, Bool.false_or, h.ahead k (Nat.le_of_succ_le hk') hk40]

/-- In MEAS_HIGH the only poll that measures is the fall poll. -/
theorem fallDuration_fall {s : State} (hs : s.st = .measHigh) (hhi : s.hi = true) (hl : s.inp.lvl = .low) :
    fallDuration s = [s.inp.now - s.tr] := if_pos ⟨hs, hhi, hl⟩

theorem fallDuration_of_same_level {s : State} (h : s.hi = true ↔ s.inp.lvl = .high) : fallDuration s = [] :=
  if_neg fun ⟨_, hhi, hl⟩ => by simp [hl, hhi] at h

theorem fallDuration_bitLow {s : State} (hs : s.st = .bitLow) : fallDuration s = [] :=
  if_neg fun ⟨h, _⟩ => by simp [hs] at h

theorem SlotsReceived.bitLow_step {ds : List Time} {s t : State} (h : SlotsReceived ds s) (hs : s.st = .bitLow)
    (ht : execStBitLow s = .next t) : SlotsReceived (ds ++ fallDuration s) t := by
  rw [fallDuration_bitLow hs, List.append_nil]
  rcases execStBitLow_cases ht with ⟨-, rfl⟩ | ⟨-, rfl⟩ | ⟨-, rfl⟩
  · exact h.of_same_slots (.inl hs) rfl rfl (by simp [enterMeasHigh])
  · exact h.of_same_slots (.inl hs) rfl rfl (by simp [fail])
  · exact h.of_same_slots (.inl hs) rfl rfl (by simp [hs])

theorem SlotsReceived.measHigh_step {ds : List Time} {s t : State} (h : SlotsReceived ds s) (hs : s.st = .measHigh)
    (hi : s.i.toNat ≤ 39) (hwf : Memory.wf s.fb = true) (ht : execStMeasHigh s = .next t) :
    SlotsReceived (ds ++ fallDuration s) t := by
  rcases execStMeasHigh_cases ht with ⟨hhi, hl, rfl⟩ | ⟨hhi, hl, rfl, -⟩ | ⟨hedge, -, rfl⟩ | ⟨hedge, -, rfl⟩
  · have hnone : fallDuration s = [] := if_neg (by simp [hhi])
    rw [hnone, List.append_nil]
    exact h.of_same_slots (.inr hs) rfl rfl (by simp [hs])
  · rw [fallDuration_fall hs hhi hl]
    exact h.afterFall hs hi hwf
  · rw [fallDuration_of_same_level hedge, List.append_nil]
    exact h.of_same_slots (.inr hs) rfl rfl (by simp [fail])
  · rw [fallDuration_of_same_level hedge, List.append_nil]
    exact h.of_same_slots (.inr hs) rfl rfl (by simp [hs])

/-- A state's operation that leads from ACK_HIGH to BIT_LOW begins the bit loop. -/
theorem exec_st_begins_slots {s t : State} (hs : s.st = .ackHigh) (ht : exec (stInstr s.st) s = .next t)
    (hst : t.st = .bitLow) : SlotsReceived [] t := by
  rw [hs] at ht
  rcases execStAckHigh_cases ht with ⟨-, rfl⟩ | ⟨-, -, rfl⟩ | ⟨-, -, rfl⟩ | ⟨-, rfl⟩
  · exact .hsOk _
  · simp at hst
  · simp [fail] at hst
  · simp [hs] at hst

/-- In the bit loop a state's operation keeps the slots received. -/
theorem exec_st_keeps_slots {ds : List Time} {s t : State} (hs : s.st = .bitLow ∨ s.st = .measHigh)
    (hi : s.i.toNat ≤ 39) (hwf : Memory.wf s.fb = true) (h : SlotsReceived ds s)
    (ht : exec (stInstr s.st) s = .next t) : SlotsReceived (ds ++ fallDuration s) t := by
  rcases hs with hs | hs <;> rw [hs] at ht
  · exact h.bitLow_step hs ht
  · exact h.measHigh_step hs hi hwf ht

theorem step_begins_slots {s t : State} (hs : s.st = .ackHigh) (hr : s.inp.rst = false) (ht : step s = .next t)
    (hst : t.st = .bitLow) : SlotsReceived [] t := by
  obtain ⟨s1, u, h1, hu, rfl⟩ := step_cases hr ht
  rw [present_st] at hst
  rcases h1 with rfl | ⟨w, n, rfl⟩
  · exact (exec_st_begins_slots hs hu hst).present
  · exact (exec_st_begins_slots (s := s.setHostWord w n) hs hu hst).present

theorem step_keeps_slots {ds : List Time} {s t : State} (hs : s.st = .bitLow ∨ s.st = .measHigh)
    (hi : s.i.toNat ≤ 39) (hwf : Memory.wf s.fb = true) (hr : s.inp.rst = false) (h : SlotsReceived ds s)
    (ht : step s = .next t) : SlotsReceived (ds ++ fallDuration s) t := by
  obtain ⟨s1, u, h1, hu, rfl⟩ := step_cases hr ht
  rcases h1 with rfl | ⟨w, n, rfl⟩
  · exact (exec_st_keeps_slots hs hi hwf h hu).present
  · exact (exec_st_keeps_slots (s := s.setHostWord w n) hs hi hwf { h with } hu).present

/-! ## Forty slots, polled three times each (R106) -/

/-- The block is in BIT_LOW before the sampled slots `xs`, the last ones of the frame, with the slots from `i` on
still 0. -/
structure SlotsToCome (s : State) (xs : List SlotSample) (rest : List Input) : Prop where
  st_eq : s.st = .bitLow
  count : s.i.toNat + xs.length = 40
  fb_wf : Memory.wf s.fb = true
  ahead : SlotsAheadZero s
  inputs : s.inp :: s.env = xs.flatMap SlotSample.inputs ++ rest

/-- `t` is in CHECK and holds the sampled slots `xs` from slot `i` of `s` on, the slots before as they were. -/
structure SlotsTaken (s : State) (xs : List SlotSample) (t : State) : Prop where
  st_eq : t.st = .check
  pullUp_off : t.pinPu = false
  before : ∀ k, k < s.i.toNat → slotValue t.fb k = slotValue s.fb k
  taken : ∀ (k : Nat) (x : SlotSample), xs[k]? = some x → slotValue t.fb (s.i.toNat + k) = x.value

section
variable {s : State} {x : SlotSample} {xs : List SlotSample} {rest : List Input}

theorem SlotsToCome.index_le (h : SlotsToCome s (x :: xs) rest) : s.i.toNat ≤ 39 := by
  have hcount := h.count
  simp at hcount
  omega

theorem SlotsToCome.first_inputs (h : SlotsToCome s (x :: xs) rest) :
    s.inp :: s.env = x.inputs ++ (xs.flatMap SlotSample.inputs ++ rest) := by
  rw [h.inputs, List.flatMap_cons, List.append_assoc]

theorem SlotsToCome.stepsTo_after (h : SlotsToCome s (x :: xs) rest) :
    stepsTo 3 s (x.after (xs.flatMap SlotSample.inputs ++ rest) s) :=
  SlotSample.stepsTo_after h.st_eq h.index_le h.first_inputs

/-- The slots of the buffer after the first of the slots to come. -/
theorem SlotsToCome.slotValue_after (h : SlotsToCome s (x :: xs) rest) (more : List Input) (k : Nat) :
    slotValue (x.after more s).fb k = if k = s.i.toNat then x.value else slotValue s.fb k :=
  x.slotValue_after more h.fb_wf (h.ahead _ le_rfl (Nat.lt_succ_of_le h.index_le)) k

/-- The last slot leads to CHECK. -/
theorem SlotsToCome.last (h : SlotsToCome s [x] rest) (more : List Input) : SlotsTaken s [x] (x.after more s) := by
  obtain ⟨hst, -, hpu⟩ := x.after_last more (Nat.succ.inj h.count)
  refine ⟨hst, hpu, fun k hk => ?_, fun k y hy => ?_⟩
  · rw [h.slotValue_after, if_neg hk.ne]
  · cases k with
    | zero =>
      cases hy
      rw [h.slotValue_after, Nat.add_zero, if_pos rfl]
    | succ k => simp at hy

/-- A slot that is not the last leads to the slots after it. -/
theorem SlotsToCome.next {y : SlotSample} (h : SlotsToCome s (x :: y :: xs) rest) :
    SlotsToCome (x.after ((y :: xs).flatMap SlotSample.inputs ++ rest) s) (y :: xs) rest := by
  have hcount := h.count
  simp only [List.length_cons] at hcount
  obtain ⟨hst, hi, -⟩ := x.after_more ((y :: xs).flatMap SlotSample.inputs ++ rest) (s := s) (by omega)
  obtain ⟨hinp, henv⟩ := x.after_inputs ((y :: xs).flatMap SlotSample.inputs ++ rest) (s := s) rfl
  refine ⟨hst, by simp only [hi, List.length_cons]; omega, ?_, fun k hk hk40 => ?_, by rw [hinp, henv]; rfl⟩
  · rw [SlotSample.after_fb]
    exact storedBit_wf h.fb_wf h.index_le _
  · rw [h.slotValue_after, if_neg (by omega)]
    exact h.ahead k (by omega) hk40

/-- The slots after the first, taken, with the first one as its three polls left it. -/
theorem SlotsToCome.taken_cons {y : SlotSample} {more : List Input} {t : State}
    (h : SlotsToCome s (x :: y :: xs) rest) (ht : SlotsTaken (x.after more s) (y :: xs) t) :
    SlotsTaken s (x :: y :: xs) t := by
  have hcount := h.count
  simp only [List.length_cons] at hcount
  obtain ⟨-, hi, -⟩ := x.after_more more (s := s) (by omega)
  refine ⟨ht.st_eq, ht.pullUp_off, fun k hk => ?_, fun k z hz => ?_⟩
  · rw [ht.before k (by omega), h.slotValue_after, if_neg hk.ne]
  · cases k with
    | zero =>
      cases hz
      rw [Nat.add_zero, ht.before _ (by omega), h.slotValue_after, if_pos rfl]
    | succ k => rw [← ht.taken k z hz, hi, Nat.add_right_comm, Nat.add_assoc]

end

/-- The slots to come are all received, each in three steps. -/
theorem SlotsToCome.steps {s : State} {x : SlotSample} {xs : List SlotSample} {rest : List Input}
    (h : SlotsToCome s (x :: xs) rest) : ∃ t, stepsTo (3 * (x :: xs).length) s t ∧ SlotsTaken s (x :: xs) t := by
  induction xs generalizing s x with
  | nil => exact ⟨_, h.stepsTo_after, h.last _⟩
  | cons y ys ih =>
    obtain ⟨t, hsteps, ht⟩ := ih h.next
    refine ⟨t, ?_, h.taken_cons ht⟩
    rw [List.length_cons, Nat.mul_succ, Nat.add_comm]
    exact stepsTo_trans h.stepsTo_after hsteps

/-- Settles O33: the bit loop's beginning, its steps, and by induction over the sampled slots its forty slots. -/
theorem fortyBitSlotsMakeTheFrame : Obligations.FortyBitSlotsMakeTheFrame := by
  unfold Obligations.FortyBitSlotsMakeTheFrame
  refine ⟨fun s t hs hr ht hst => step_begins_slots hs hr ht hst,
    fun s t ds hs hi hwf hr h ht => step_keeps_slots hs hi hwf hr h ht, fun s xs rest hst hi hfb hlen hin => ?_⟩
  obtain ⟨x, xs, rfl⟩ := List.exists_cons_of_length_eq_add_one hlen
  have hcome : SlotsToCome s (x :: xs) rest :=
    ⟨hst, by simpa [hi] using hlen, by rw [hfb]; exact Memory.wf_nil, fun k _ _ => hfb ▸ slotValue_nil k, hin⟩
  obtain ⟨t, hsteps, ht⟩ := hcome.steps
  rw [hlen] at hsteps
  exact ⟨t, hsteps, ht.st_eq, ht.pullUp_off, fun k z hz => by simpa [hi] using ht.taken k z hz⟩

end Sys2Proof.Machine
end

section
/-! PROOFS. The checksum test of CHECK (R109 to R115). -/

namespace Sys2Proof.Machine

/-! ## The two ends of CHECK -/

/-- Settles O35: the validation of a buffer whose checksum holds writes the results and ends in DONE. -/
theorem checkAcceptsAFrameWhoseChecksumHolds : Obligations.CheckAcceptsAFrameWhoseChecksumHolds := by
  unfold Obligations.CheckAcceptsAFrameWhoseChecksumHolds
  intro s hsum
  exact congrArg Host.Outcome.next (validate_accept s ((accept_iff ..).2 hsum))

/-- Settles O36: the validation of a buffer whose checksum fails only ends in FAILED. -/
theorem checkRejectsAFrameWhoseChecksumFails : Obligations.CheckRejectsAFrameWhoseChecksumFails := by
  unfold Obligations.CheckRejectsAFrameWhoseChecksumFails
  intro s hsum
  exact congrArg Host.Outcome.next (validate_reject s (Bool.eq_false_iff.2 (mt (accept_iff ..).1 hsum)))

/-! ## What the checksum detects -/

/-- The byte of a frame's word that begins at bit `8 * q`: the checksum is byte 0, the first byte byte 4 (R57). -/
def frameByte (w : BitVec 40) (q : Nat) : Byte := w.extractLsb' (8 * q) 8

/-- The test of a frame's word in whole numbers, byte by byte. -/
theorem frameAccepted_iff (w : BitVec 40) : frameAccepted w = true ↔ (frameByte w 0).toNat =
    ((frameByte w 4).toNat + (frameByte w 3).toNat + (frameByte w 2).toNat + (frameByte w 1).toNat) % 256 :=
  accept_iff ..

/-- Every byte of an accepted frame is determined by the other four. -/
theorem frameByte_eq_of_accepted {w w' : BitVec 40} {p : Nat} (h : frameAccepted w = true)
    (h' : frameAccepted w' = true) (hp : p < 5) (hother : ∀ q, q ≠ p → frameByte w' q = frameByte w q) :
    frameByte w' p = frameByte w p := by
  rw [frameAccepted_iff] at h h'
  have hnat (q : Nat) : p = q ∨ (frameByte w' q).toNat = (frameByte w q).toNat :=
    (eq_or_ne p q).imp_right fun hne => congrArg BitVec.toNat (hother q hne.symm)
  have h0 := hnat 0
  have h1 := hnat 1
  have h2 := hnat 2
  have h3 := hnat 3
  have h4 := hnat 4
  apply BitVec.eq_of_toNat_eq
  interval_cases p <;> omega

/-- A bit of a byte of a frame with the bit `k` inverted. -/
theorem getLsbD_frameByte_flip (w : BitVec 40) {k q j : Nat} (hk : k < 40) (hj : j < 8) :
    (frameByte (w ^^^ (1#40 <<< k)) q).getLsbD j = ((frameByte w q).getLsbD j ^^ decide (8 * q + j = k)) := by
  have hbit : (1#40 <<< k).getLsbD (8 * q + j) = decide (8 * q + j = k) := by
    rw [← BitVec.twoPow_eq, BitVec.getLsbD_twoPow]
    simp [hk, eq_comm]
  simp [frameByte, hj, hbit]

/-- An inverted bit leaves the bytes it is not in. -/
theorem frameByte_flip_other (w : BitVec 40) {k q : Nat} (hk : k < 40) (hq : q ≠ k / 8) :
    frameByte (w ^^^ (1#40 <<< k)) q = frameByte w q := by
  apply BitVec.eq_of_getLsbD_eq
  intro j hj
  have hne : 8 * q + j ≠ k := by omega
  simp [getLsbD_frameByte_flip w hk hj, hne]

/-- An inverted bit changes the byte it is in. -/
theorem frameByte_flip_ne (w : BitVec 40) {k : Nat} (hk : k < 40) :
    frameByte (w ^^^ (1#40 <<< k)) (k / 8) ≠ frameByte w (k / 8) := by
  intro heq
  have hbit := getLsbD_frameByte_flip w (q := k / 8) hk (Nat.mod_lt k (by decide : 8 > 0))
  simp [heq, Nat.div_add_mod] at hbit

/-- Settles O38: the checksum byte is the sum, and an inverted bit changes one byte, which the other four of an
accepted frame determine. -/
theorem checksumDetectsEveryOneBitError : Obligations.ChecksumDetectsEveryOneBitError := by
  unfold Obligations.ChecksumDetectsEveryOneBitError
  refine ⟨fun h f t g => ⟨checksum h f t g, decide_eq_true rfl, fun c' => of_decide_eq_true⟩, fun w k hk h => ?_⟩
  refine Bool.eq_false_iff.2 fun h' => frameByte_flip_ne w hk ?_
  exact frameByte_eq_of_accepted h h' (by omega) fun q hq => frameByte_flip_other w hk hq

end Sys2Proof.Machine
end

section
/-! PROOFS. A READ depends on its inputs alone (R33, R132): two blocks that agree on the registers that mean something
where they are answer a step alike. -/

namespace Sys2Proof.Machine

/-! ## The agreement, state by state -/

/-- What `SameRead` says besides in the state `st` codes: the registers that mean something there (R33). -/
abbrev SameReadAt (s s' : State) : St → Prop
  | .idle | .done | .failed => True
  | .startLow | .startRel | .ackLow | .ackHigh | .retryWait => s.t0 = s'.t0 ∧ s.att = s'.att
  | .bitLow => s.t0 = s'.t0 ∧ s.i = s'.i ∧ s.fb = s'.fb
  | .measHigh => s.t0 = s'.t0 ∧ s.i = s'.i ∧ s.fb = s'.fb ∧ s.hi = s'.hi ∧ (s.hi = true → s.tr = s'.tr)
  | .check => s.fb = s'.fb

theorem SameRead.at_st {s s' : State} (h : SameRead s s') : SameReadAt s s' s.st := by
  obtain ⟨-, ht0, hatt, hi, hfb, hhi, htr⟩ := h
  cases hs : s.st <;>
    simp only [hs, State.busy, stBusy, ne_eq, not_false_eq_true, forall_const, reduceCtorEq, true_or, or_true] at *
  case idle | done | failed => exact trivial
  case startLow | startRel | ackLow | ackHigh | retryWait => exact ⟨ht0, hatt⟩
  case bitLow => exact ⟨ht0, hi, hfb⟩
  case measHigh => exact ⟨ht0, hi, hfb, hhi, htr⟩
  case check => exact hfb

theorem SameRead.of_at {s s' : State} (x : St) (hs : s.st = x) (hs' : s'.st = x) (h : SameReadAt s s' x) :
    SameRead s s' := by
  cases x
  case idle | done | failed => constructor <;> simp [State.busy, stBusy, *]
  case startLow | startRel | ackLow | ackHigh | retryWait =>
    obtain ⟨ht0, hatt⟩ := h
    constructor <;> simp [*]
  case bitLow =>
    obtain ⟨ht0, hi, hfb⟩ := h
    constructor <;> simp [*]
  case measHigh =>
    obtain ⟨ht0, hi, hfb, hhi, htr⟩ := h
    constructor <;> simp [*]
    exact hhi ▸ htr
  case check => constructor <;> simp [*]

/-! ## Two blocks that go on alike -/

theorem busy_of_st {s : State} {x : St} (hs : s.st = x) (hx : stBusy x = true) : s.busy = true := by
  rwa [State.busy, hs]

/-- `s` goes on to `t` as `s'` does to `t'`: by the same pin operations, to the same place of a READ, with the same
status if it has ended, and the same reading if it has succeeded. -/
structure ReadGoesAlike (s s' t t' : State) : Prop where
  ops : ∃ ops : List PinEvent, t.hist = s.hist ++ ops ∧ t'.hist = s'.hist ++ ops
  same : SameRead t t'
  status : t.busy = false → t.code = t'.code
  reading : t.st = .done → t.hum = t'.hum ∧ t.temp = t'.temp ∧ t.rvalid = t'.rvalid
  kept : t.st ≠ .done → t.hum = s.hum ∧ t'.hum = s'.hum ∧ t.temp = s.temp ∧ t'.temp = s'.temp

/-- The READ goes on, in both blocks. -/
theorem ReadGoesAlike.of_running {s s' t t' : State} (ops : List PinEvent) (hhist : t.hist = s.hist ++ ops)
    (hhist' : t'.hist = s'.hist ++ ops) (hbusy : t.busy = true) (hsame : SameRead t t')
    (hkept : SameResults s t := by exact ⟨rfl, rfl, rfl, rfl⟩)
    (hkept' : SameResults s' t' := by exact ⟨rfl, rfl, rfl, rfl⟩) : ReadGoesAlike s s' t t' where
  ops := ⟨ops, hhist, hhist'⟩
  same := hsame
  status hrest := absurd (hbusy.symm.trans hrest) (by decide)
  reading hdone := absurd (hbusy.symm.trans (busy_of_rest (.inr (.inl hdone)))) (by decide)
  kept _ := ⟨hkept.hum_eq, hkept'.hum_eq, hkept.temp_eq, hkept'.temp_eq⟩

/-- A delay that is not over. -/
theorem ReadGoesAlike.delay {s s' : State} (h : SameRead s s') (hb : s.busy = true) : ReadGoesAlike s s' s s' :=
  .of_running [] (List.append_nil _).symm (List.append_nil _).symm hb h

/-- READ's end by an error. -/
theorem ReadGoesAlike.of_failed {s s' u u' : State} (e : ErrorKind) (ops : List PinEvent)
    (hhist : u.hist = s.hist ++ ops) (hhist' : u'.hist = s'.hist ++ ops)
    (hkept : SameResults s u := by exact ⟨rfl, rfl, rfl, rfl⟩)
    (hkept' : SameResults s' u' := by exact ⟨rfl, rfl, rfl, rfl⟩) : ReadGoesAlike s s' (fail e u) (fail e u') where
  ops := ⟨ops, hhist, hhist'⟩
  same := .of_at .failed rfl rfl trivial
  status _ := rfl
  reading hdone := by simp [fail] at hdone
  kept _ := ⟨hkept.hum_eq, hkept'.hum_eq, hkept.temp_eq, hkept'.temp_eq⟩

section
variable {s s' : State} (hinp : s.inp = s'.inp)
include hinp

theorem readLine_hist_alike : s'.readLine.hist = s'.hist ++ [⟨.readLine s.inp.lvl, s.inp.now⟩] := by
  rw [hinp]
  rfl

theorem cleanup_hist_alike : (cleanup s'.readLine).hist =
    s'.hist ++ [⟨.readLine s.inp.lvl, s.inp.now⟩, ⟨.pullUp false, s.inp.now⟩] := by
  rw [hinp, List.append_cons]
  rfl

/-- A poll that performs nothing but its read. -/
theorem ReadGoesAlike.of_read {t t' : State} (hhist : t.hist = s.readLine.hist) (hhist' : t'.hist = s'.readLine.hist)
    (hbusy : t.busy = true) (hsame : SameRead t t') (hkept : SameResults s t := by exact ⟨rfl, rfl, rfl, rfl⟩)
    (hkept' : SameResults s' t' := by exact ⟨rfl, rfl, rfl, rfl⟩) : ReadGoesAlike s s' t t' :=
  .of_running _ hhist (hhist'.trans (readLine_hist_alike hinp)) hbusy hsame hkept hkept'

/-- A poll after whose read comes CLEANUP, the READ going on. -/
theorem ReadGoesAlike.of_cleanup {t t' : State} (hhist : t.hist = (cleanup s.readLine).hist)
    (hhist' : t'.hist = (cleanup s'.readLine).hist) (hbusy : t.busy = true) (hsame : SameRead t t')
    (hkept : SameResults s t) (hkept' : SameResults s' t') : ReadGoesAlike s s' t t' :=
  .of_running _ (hhist.trans (cleanup_hist_alike rfl)) (hhist'.trans (cleanup_hist_alike hinp)) hbusy hsame hkept hkept'

/-- A poll that ends no wait. -/
theorem ReadGoesAlike.poll (h : SameRead s s') (hb : s.busy = true) : ReadGoesAlike s s' s.readLine s'.readLine :=
  .of_read hinp rfl rfl hb { h with }

/-- A poll that raises an error. -/
theorem ReadGoesAlike.poll_fails (e : ErrorKind) :
    ReadGoesAlike s s' (fail e (cleanup s.readLine)) (fail e (cleanup s'.readLine)) :=
  .of_failed e _ (cleanup_hist_alike rfl) (cleanup_hist_alike hinp)

theorem now_alike : s.inp.now = s'.inp.now := congrArg Input.now hinp

theorem waited_alike (ht0 : s.t0 = s'.t0) : s'.waited = s.waited := by rw [waited_eq, waited_eq, hinp, ht0]

theorem waitLevel_alike (ht0 : s.t0 = s'.t0) (l : Level) (limit : Nat) :
    waitLevel l limit s' = waitLevel l limit s := by
  rw [waitLevel, waitLevel, timedOut, timedOut, waited_alike hinp ht0, hinp]

theorem measureHigh_alike (ht0 : s.t0 = s'.t0) (hhi : s.hi = s'.hi) (limit : Nat) :
    measureHigh limit s' = measureHigh limit s := by
  rw [measureHigh, measureHigh, timedOut, timedOut, waited_alike hinp ht0, hinp, hhi]

end

/-! ## The fall poll -/

theorem storeBit_next_iff {b : Bool} {s t : State} : storeBit b s = .next t ↔
    t = s.setFb (storedBit b s.i s.fb) ∧ (b = true → slotByte s.i < 5) := by
  refine ⟨storeBit_next, ?_⟩
  rintro ⟨rfl, hslot⟩
  cases b with
  | false => rfl
  | true => exact if_pos (hslot rfl)

theorem mapNext_next_iff {f : State → State} {o : Host.Outcome State Fault Refusal} {t : State} :
    mapNext f o = .next t ↔ ∃ u, o = .next u ∧ t = f u := by
  cases o <;> simp [mapNext, eq_comm]

/-- A fall poll goes on exactly when the byte it sets a bit of exists (R36, R101). -/
theorem fallPoll_next_iff {s t : State} : fallPoll s.readLine = .next t ↔
    t = afterFall s ∧ (classify (elapsed s.inp.now s.tr) = true → slotByte s.i < 5) := by
  rw [fallPoll_eq, mapNext_next_iff]
  simp only [storeBit_next_iff]
  constructor
  · rintro ⟨u, ⟨rfl, hslot⟩, rfl⟩
    exact ⟨rfl, hslot⟩
  · rintro ⟨rfl, hslot⟩
    exact ⟨fallStored s, ⟨rfl, hslot⟩, rfl⟩

theorem hi_of_measureHigh_fall {limit : Nat} {s : State} (h : measureHigh limit s = .fall) : s.hi = true := by
  unfold measureHigh at h
  split_ifs at h with hrise hfall
  exact hfall.1

/-! ## The states -/

/-- From both blocks the operation `op` goes on alike. -/
def RunsAlike (op : State → Host.Outcome State Fault Refusal) (s s' : State) : Prop :=
  ∀ t, op s = .next t → ∃ t', op s' = .next t' ∧ ReadGoesAlike s s' t t'

section
variable {s s' : State} (hinp : s.inp = s'.inp)
include hinp

/-- The start of an attempt, the first or the second (R86). -/
theorem ReadGoesAlike.enterStartLow (hatt : s.att = s'.att) :
    ReadGoesAlike s s' (enterStartLow s) (enterStartLow s') := by
  have hsame : SameRead (Machine.enterStartLow s) (Machine.enterStartLow s') :=
    .of_at .startLow rfl rfl ⟨now_alike hinp, hatt⟩
  rw [enterStartLow_eq, enterStartLow_eq] at hsame ⊢
  exact .of_running _ rfl (by rw [hinp]) rfl hsame

/-- An attempt's end without an acknowledgment: the retry or the error, by the attempt (R92). -/
theorem ReadGoesAlike.hsFail (hatt : s.att = s'.att) (e : ErrorKind) :
    ReadGoesAlike s s' (hsFail e s.readLine) (hsFail e s'.readLine) := by
  rcases att_cases s.att with ha | ha
  · rw [hsFail_first e s.readLine ha, hsFail_first e s'.readLine (hatt ▸ ha)]
    exact .of_cleanup hinp rfl rfl rfl (.of_at .retryWait rfl rfl ⟨now_alike hinp, rfl⟩) ⟨rfl, rfl, rfl, rfl⟩
      ⟨rfl, rfl, rfl, rfl⟩
  · have hne : s.att ≠ 0#1 := ha ▸ by decide
    rw [hsFail_last e s.readLine hne, hsFail_last e s'.readLine (hatt ▸ hne)]
    exact .poll_fails hinp e

/-- STORE_BIT and NEXT_BIT of one slot, of one measured duration (R99 to R102). -/
theorem ReadGoesAlike.afterFall (hi : s.i = s'.i) (hfb : s.fb = s'.fb) (htr : s.tr = s'.tr) :
    ReadGoesAlike s s' (afterFall s) (afterFall s') := by
  have hstored : (Machine.afterFall s).fb = (Machine.afterFall s').fb := by
    rw [afterFall_fb, afterFall_fb, hinp, hi, hfb, htr]
  rcases afterFall_cases s with ⟨hlast, ht⟩ | ⟨hmore, ht⟩
  · have ht' := (afterFall_cases s').resolve_right fun h => h.1 (hi ▸ hlast)
    rw [ht, ht'.2] at hstored ⊢
    exact .of_cleanup hinp rfl rfl rfl (.of_at .check rfl rfl hstored) ⟨rfl, rfl, rfl, rfl⟩ ⟨rfl, rfl, rfl, rfl⟩
  · have ht' := (afterFall_cases s').resolve_left fun h => hmore (hi ▸ h.1)
    rw [ht, ht'.2] at hstored ⊢
    exact .of_read hinp rfl rfl rfl
      (.of_at .bitLow rfl rfl ⟨now_alike hinp, congrArg (· + 1#6) hi, hstored⟩)

variable (h : SameRead s s')
include h

theorem startLow_alike (hs : s.st = .startLow) : RunsAlike execStStartLow s s' := by
  obtain ⟨ht0, hatt⟩ : SameReadAt s s' .startLow := hs ▸ h.at_st
  have hw := waited_alike hinp ht0
  intro t ht
  rcases execStStartLow_cases ht with ⟨hover, rfl⟩ | ⟨hin, rfl⟩
  · refine ⟨enterStartRel s', (startLowHoldsTheStartPulse s').1 (hover.trans_eq hw.symm), ?_⟩
    exact .of_running _ rfl (by rw [hinp]; rfl) rfl (.of_at .startRel rfl rfl ⟨now_alike hinp, hatt⟩)
  · exact ⟨s', (startLowHoldsTheStartPulse s').2 (hw.trans_lt hin), .delay h (busy_of_st hs rfl)⟩

theorem startRel_alike (hs : s.st = .startRel) : RunsAlike execStStartRel s s' := by
  obtain ⟨ht0, hatt⟩ : SameReadAt s s' .startRel := hs ▸ h.at_st
  have hw := waited_alike hinp ht0
  intro t ht
  rcases execStStartRel_cases ht with ⟨hover, rfl⟩ | ⟨hin, rfl⟩
  · rw [startListening_enter_ackLow]
    refine ⟨_, (startRelEndsInListening s').1 (hover.trans_eq hw.symm), ?_⟩
    exact .of_running _ rfl (by rw [hinp]) rfl (.of_at .ackLow rfl rfl ⟨now_alike hinp, hatt⟩)
  · exact ⟨s', (startRelEndsInListening s').2 (hw.trans_lt hin), .delay h (busy_of_st hs rfl)⟩

theorem retryWait_alike (hs : s.st = .retryWait) : RunsAlike execStRetryWait s s' := by
  obtain ⟨ht0, hatt⟩ : SameReadAt s s' .retryWait := hs ▸ h.at_st
  have hw := waited_alike hinp ht0
  intro t ht
  rcases execStRetryWait_cases ht with ⟨hover, rfl⟩ | ⟨hin, rfl⟩
  · have hend := (retryWaitEndsInTheNextAttempt s').1 (hover.trans_eq hw.symm)
    rw [← enterStartLow_eq] at hend
    exact ⟨enterStartLow s', hend, .enterStartLow hinp hatt⟩
  · exact ⟨s', (retryWaitEndsInTheNextAttempt s').2 (hw.trans_lt hin), .delay h (busy_of_st hs rfl)⟩

theorem ackLow_alike (hs : s.st = .ackLow) : RunsAlike execStAckLow s s' := by
  obtain ⟨ht0, hatt⟩ : SameReadAt s s' .ackLow := hs ▸ h.at_st
  intro t ht
  unfold execStAckLow at ht ⊢
  rw [waitLevel_alike hinp ht0]
  cases hpoll : waitLevel .low Config.tAckLow s <;> rw [hpoll] at ht <;> cases ht
  case ok => exact ⟨_, rfl, .of_read hinp rfl rfl rfl (.of_at .ackHigh rfl rfl ⟨now_alike hinp, hatt⟩)⟩
  case timeout => exact ⟨_, rfl, .hsFail hinp hatt _⟩
  case stay => exact ⟨_, rfl, .poll hinp h (busy_of_polling (hs ▸ rfl))⟩

theorem ackHigh_alike (hs : s.st = .ackHigh) : RunsAlike execStAckHigh s s' := by
  obtain ⟨ht0, hatt⟩ : SameReadAt s s' .ackHigh := hs ▸ h.at_st
  intro t ht
  unfold execStAckHigh at ht ⊢
  rw [waitLevel_alike hinp ht0]
  cases hpoll : waitLevel .high Config.tAckHigh s <;> rw [hpoll] at ht <;> cases ht
  case ok => exact ⟨_, rfl, .of_read hinp rfl rfl rfl (.of_at .bitLow rfl rfl ⟨now_alike hinp, rfl, rfl⟩)⟩
  case timeout => exact ⟨_, rfl, .hsFail hinp hatt _⟩
  case stay => exact ⟨_, rfl, .poll hinp h (busy_of_polling (hs ▸ rfl))⟩

theorem bitLow_alike (hs : s.st = .bitLow) : RunsAlike execStBitLow s s' := by
  obtain ⟨ht0, hi, hfb⟩ : SameReadAt s s' .bitLow := hs ▸ h.at_st
  intro t ht
  unfold execStBitLow at ht ⊢
  rw [waitLevel_alike hinp ht0]
  cases hpoll : waitLevel .low Config.tBitLow s <;> rw [hpoll] at ht <;> cases ht
  case ok =>
    exact ⟨_, rfl, .of_read hinp rfl rfl rfl
      (.of_at .measHigh rfl rfl ⟨now_alike hinp, hi, hfb, rfl, fun hhi => nomatch hhi⟩)⟩
  case timeout => exact ⟨_, rfl, .poll_fails hinp _⟩
  case stay => exact ⟨_, rfl, .poll hinp h (busy_of_polling (hs ▸ rfl))⟩

theorem measHigh_alike (hs : s.st = .measHigh) : RunsAlike execStMeasHigh s s' := by
  obtain ⟨ht0, hi, hfb, hhi, htr⟩ : SameReadAt s s' .measHigh := hs ▸ h.at_st
  have hst' : s'.st = .measHigh := h.st_eq ▸ hs
  have hb : s.busy = true := busy_of_polling (hs ▸ rfl)
  intro t ht
  unfold execStMeasHigh at ht ⊢
  rw [measureHigh_alike hinp ht0 hhi]
  cases hpoll : measureHigh Config.tMeas s <;> rw [hpoll] at ht
  case rise =>
    cases ht
    exact ⟨_, rfl, .of_read hinp rfl rfl hb
      (.of_at .measHigh hs hst' ⟨ht0, hi, hfb, rfl, fun _ => now_alike hinp⟩)⟩
  case fall =>
    have hhigh := hi_of_measureHigh_fall hpoll
    obtain ⟨rfl, hslot⟩ := fallPoll_next_iff.1 ht
    refine ⟨afterFall s', fallPoll_next_iff.2 ⟨rfl, ?_⟩, .afterFall hinp hi hfb (htr hhigh)⟩
    rwa [← hinp, ← htr hhigh, ← hi]
  case timeout =>
    cases ht
    exact ⟨_, rfl, .poll_fails hinp _⟩
  case stay =>
    cases ht
    exact ⟨_, rfl, .poll hinp h hb⟩

omit hinp in
theorem check_alike (hs : s.st = .check) : ReadGoesAlike s s' (validate s) (validate s') := by
  have hfb : SameReadAt s s' .check := hs ▸ h.at_st
  have hbyte (k : Nat) : s'.byteAt k = s.byteAt k := congrArg (Memory.read · k) hfb.symm
  rcases validate_cases s with ⟨hacc, ht⟩ | ⟨hrej, ht⟩
  · have ht' := validate_accept s' (by simpa only [hbyte] using hacc)
    rw [ht, ht', hbyte, hbyte]
    exact ⟨⟨[], (List.append_nil _).symm, (List.append_nil _).symm⟩, .of_at .done rfl rfl trivial, fun _ => rfl,
      fun _ => ⟨rfl, rfl, rfl⟩, fun hne => absurd rfl hne⟩
  · have ht' := validate_reject s' (by simpa only [hbyte] using hrej)
    rw [ht, ht']
    exact .of_failed _ [] (List.append_nil _).symm (List.append_nil _).symm

/-- The operation of the state a busy block is in. -/
theorem exec_st_alike (hb : s.busy = true) : RunsAlike (exec (stInstr s.st)) s s' := by
  intro t ht
  rcases exec_st_cases ht with ⟨hs, -⟩ | ⟨hs, ht⟩ | ⟨hs, ht⟩ | ⟨hs, ht⟩ | ⟨hs, ht⟩ | ⟨hs, ht⟩ | ⟨hs, ht⟩ | ⟨hs, ht⟩ |
    ⟨hs, rfl⟩
  · exact absurd (hb.symm.trans (busy_of_rest hs)) (by decide)
  all_goals rw [hs]
  · exact startLow_alike hinp h hs t ht
  · exact startRel_alike hinp h hs t ht
  · exact ackLow_alike hinp h hs t ht
  · exact ackHigh_alike hinp h hs t ht
  · exact retryWait_alike hinp h hs t ht
  · exact bitLow_alike hinp h hs t ht
  · exact measHigh_alike hinp h hs t ht
  · exact ⟨validate s', rfl, check_alike h hs⟩

end

/-! ## The step -/

theorem thenPresent_next_iff {o : Host.Outcome State Fault Refusal} {t : State} :
    thenPresent o = .next t ↔ ∃ u, o = .next u ∧ t = present u := by
  cases o <;> simp [thenPresent, eq_comm]

/-- The inputs of the next step are no part of the agreement. -/
theorem ReadGoesAlike.present {s s' t t' : State} (h : ReadGoesAlike s s' t t') :
    ReadGoesAlike s s' (present t) (present t') := by
  obtain ⟨inp, env, n, hp⟩ := present_frame t
  obtain ⟨inp', env', n', hp'⟩ := present_frame t'
  rw [hp, hp']
  exact { h with same := { h.same with } }

/-- Settles O59: both steps run the same state's operation, which goes on alike from both blocks. -/
theorem readDependsOnItsInputsAlone : Obligations.ReadDependsOnItsInputsAlone := by
  unfold Obligations.ReadDependsOnItsInputsAlone
  intro s s' t h hb hinp hrst hhost ht
  rw [step_eq_exec s hrst hhost] at ht
  obtain ⟨u, hu, rfl⟩ := thenPresent_next_iff.1 ht
  obtain ⟨u', hu', halike⟩ := exec_st_alike hinp h hb u hu
  obtain ⟨⟨ops, hops, hops'⟩, hsame, hstatus, hreading, hkept⟩ := halike.present
  refine ⟨present u', ops, ?_, hops, hops', hsame, hstatus, hreading, hkept⟩
  rw [step_eq_exec s' (hinp ▸ hrst) (hinp ▸ hhost), ← h.st_eq, hu', thenPresent]

/-! ## The beginning of a READ -/

/-- A READ accepted after an INIT (R121). -/
theorem execRead_accepted {s : State} (hb : s.busy = false) (hi : s.inited = true) :
    execRead s = .next (enterStartLow (s.setAtt 0#1)) := (whenReady_ready _ s hb).trans (if_pos hi)

/-- Settles O60: the accepting step writes every register that means something in START_LOW. -/
theorem acceptedReadsStartAlike : Obligations.AcceptedReadsStartAlike := by
  unfold Obligations.AcceptedReadsStartAlike
  exact fun s s' hb hb' hi hi' hnow => ⟨_, _, execRead_accepted hb hi, execRead_accepted hb' hi',
    .of_at .startLow rfl rfl ⟨hnow, rfl⟩, rfl⟩

end Sys2Proof.Machine
end

section
/-! PROOFS. The commands (R117 to R124, R131): what a step runs, what each command does at rest, and that it does
nothing to a busy block. -/

namespace Sys2Proof.Machine

/-! ## What a step runs (R16, R124) -/

theorem decode_encodeSt (x : St) : decode .st (encodeSt x).toNat = .ok (stInstr x) := by cases x <;> rfl

/-- Settles O5: the state's code decodes to the state's operation. -/
theorem stepRunsTheOperationItsStateCodes : Obligations.StepRunsTheOperationItsStateCodes := by
  unfold Obligations.StepRunsTheOperationItsStateCodes
  intro s i hrst hhost hi
  rw [decode_encodeSt] at hi
  cases hi
  exact step_eq_exec s hrst hhost

/-- The rest states have one operation (R117, R127 to R129). -/
theorem exec_st_of_rest {s : State} (hb : s.busy = false) : exec (stInstr s.st) s = acceptCommand s := by
  unfold State.busy at hb
  cases hs : s.st with
  | idle | done | failed => rfl
  | _ =>
    rw [hs] at hb
    cases hb

/-- Settles O6: at rest the step's operation is the presented command's. -/
theorem stepAtRestRunsThePresentedCommand : Obligations.StepAtRestRunsThePresentedCommand := by
  unfold Obligations.StepAtRestRunsThePresentedCommand
  intro s w i hrst hhost hb hcmd hi
  rw [decode_cmd] at hi
  cases hi
  rw [step_eq_exec s hrst hhost, exec_st_of_rest hb, acceptCommand_some s w hcmd]

/-- Settles O19: each rest state accepts the command. -/
theorem restStatesAcceptCommandsAlike : Obligations.RestStatesAcceptCommandsAlike := by
  unfold Obligations.RestStatesAcceptCommandsAlike
  refine fun s w => ⟨fun hcmd => ?_, fun hcmd => ?_⟩
  · have h := acceptCommand_none s hcmd
    exact ⟨h, h, h⟩
  · have h := acceptCommand_some s w hcmd
    exact ⟨h, h, h⟩

/-! ## The commands at rest -/

/-- Settles O13. -/
theorem nopAndReservedChangeNothing : Obligations.NopAndReservedChangeNothing := by
  unfold Obligations.NopAndReservedChangeNothing
  exact fun s ref => ⟨rfl, rfl, fun hb hcmd => (exec_st_of_rest hb).trans (acceptCommand_none s hcmd)⟩

/-- Settles O15: with `REF = 0` the guard is all an accepted INIT or READ does. -/
theorem nullReferenceGuardWritesCodeAndStateOnly : Obligations.NullReferenceGuardWritesCodeAndStateOnly := by
  unfold Obligations.NullReferenceGuardWritesCodeAndStateOnly
  exact fun s hb => ⟨whenReady_ready _ s hb, whenReady_ready _ s hb⟩

theorem execInit_accepted {s : State} (hb : s.busy = false) : execInit s = .next (afterInit s) :=
  whenReady_ready _ s hb

/-- INIT as the registers it writes (R120). -/
theorem afterInit_eq (s : State) : afterInit s = { s with
    pinDir := .output, pinOut := .high, inited := true, code := .ok, st := .idle,
    hist := s.hist ++ [⟨.setDir .output, s.inp.now⟩, ⟨.setLevel .high, s.inp.now⟩] } := by
  rw [List.append_cons]
  rfl

/-- Settles O14: the accepted INIT and the guard. -/
theorem initMakesThePinAnIdleHighOutput : Obligations.InitMakesThePinAnIdleHighOutput := by
  unfold Obligations.InitMakesThePinAnIdleHighOutput
  intro s hb
  rw [← afterInit_eq]
  exact ⟨execInit_accepted hb, (nullReferenceGuardWritesCodeAndStateOnly s hb).1⟩

/-- Settles O20: INIT leaves the block at rest, and a second one writes the same values again. -/
theorem initIsIdempotent : Obligations.InitIsIdempotent := by
  unfold Obligations.InitIsIdempotent
  intro s t second hb ht
  obtain rfl : afterInit s = t := Host.Outcome.next.inj ((execInit_accepted hb).symm.trans ht)
  refine ⟨rfl, rfl, rfl, rfl, rfl, afterInit { afterInit s with inp := second }, execInit_accepted rfl, rfl, ?_⟩
  rw [afterInit_eq]

/-- Settles O17: an accepted READ looks at the lifecycle first. -/
theorem readBeforeInitIsRefused : Obligations.ReadBeforeInitIsRefused := by
  unfold Obligations.ReadBeforeInitIsRefused
  exact fun s hb hi => (whenReady_ready _ s hb).trans (if_neg (by simp [hi]))

/-- Settles O16: the accepted READ, the refusal and the guard. -/
theorem readStartsTheFirstAttempt : Obligations.ReadStartsTheFirstAttempt := by
  unfold Obligations.ReadStartsTheFirstAttempt
  intro s hb
  refine ⟨fun hi => ?_, fun t ht => ?_, readBeforeInitIsRefused s hb,
    (nullReferenceGuardWritesCodeAndStateOnly s hb).2⟩
  · exact (execRead_accepted hb hi).trans (congrArg Host.Outcome.next (enterStartLow_eq (s.setAtt 0#1)))
  · cases hi : s.inited with
    | true =>
      cases (execRead_accepted hb hi).symm.trans ht
      rfl
    | false => cases (readBeforeInitIsRefused s hb hi).symm.trans ht

/-! ## A command presented to a busy block (R123) -/

/-- The state with another command presented to it. -/
def withCmd (c : Option CmdWord) (s : State) : State := { s with inp := { s.inp with cmd := c } }

/-- The next step's inputs take the place of the command. -/
theorem present_withCmd (c : Option CmdWord) (s : State) : present (withCmd c s) = present s := by
  unfold present
  cases he : s.env <;> simp [withCmd, he]

theorem thenPresent_mapNext_withCmd (c : Option CmdWord) (o : Host.Outcome State Fault Refusal) :
    thenPresent (mapNext (withCmd c) o) = thenPresent o := by
  cases o with
  | next t => exact congrArg Host.Outcome.next (present_withCmd c t)
  | fault r | refused r => rfl

section
variable (c : Option CmdWord) (s : State)

theorem withCmd_hsFail (e : ErrorKind) : withCmd c (hsFail e s) = hsFail e (withCmd c s) :=
  apply_ite (withCmd c) (s.att.toNat + 1 < Config.nAttempts) _ _

theorem withCmd_nextBit : withCmd c (nextBit s) = nextBit (withCmd c s) :=
  apply_ite (withCmd c) (s.i.toNat = Config.nBits - 1) _ _

theorem withCmd_storeBit (b : Bool) : mapNext (withCmd c) (storeBit b s) = storeBit b (withCmd c s) := by
  cases b with
  | false => rfl
  | true => exact apply_ite (mapNext (withCmd c)) (slotByte s.i < Config.nBytes) _ _

/-- A fall poll is STORE_BIT and NEXT_BIT, and neither looks at the command (R99). -/
theorem withCmd_fallPoll : mapNext (withCmd c) (fallPoll s) = fallPoll (withCmd c s) := by
  have hstore := withCmd_storeBit c (s.setDur (elapsed s.inp.now s.tr)) (classify (elapsed s.inp.now s.tr))
  refine Eq.trans ?_ (congrArg (mapNext nextBit) hstore)
  rw [fallPoll_eq]
  cases storeBit (classify (elapsed s.inp.now s.tr)) (s.setDur (elapsed s.inp.now s.tr)) with
  | next t => exact congrArg Host.Outcome.next (withCmd_nextBit c t)
  | fault r | refused r => rfl

/-- The operation of a busy block is the same whatever command is presented. -/
theorem withCmd_exec_st {x : St} (hx : stBusy x = true) :
    mapNext (withCmd c) (exec (stInstr x) s) = exec (stInstr x) (withCmd c s) := by
  have hwait (l : Level) (limit : Nat) : waitLevel l limit (withCmd c s) = waitLevel l limit s := rfl
  have hmeasure (limit : Nat) : measureHigh limit (withCmd c s) = measureHigh limit s := rfl
  cases x with
  | idle | done | failed => cases hx
  | startLow => exact congrArg Host.Outcome.next (apply_ite (withCmd c) (delayOver Config.tStart s = true) _ _)
  | startRel => exact congrArg Host.Outcome.next (apply_ite (withCmd c) (delayOver Config.tRelease s = true) _ _)
  | retryWait => exact congrArg Host.Outcome.next (apply_ite (withCmd c) (delayOver Config.tRetry s = true) _ _)
  | ackLow =>
    simp only [stInstr, exec, execStAckLow, hwait]
    cases waitLevel .low Config.tAckLow s with
    | ok | stay => rfl
    | timeout => exact congrArg Host.Outcome.next (withCmd_hsFail c s.readLine _)
  | ackHigh =>
    simp only [stInstr, exec, execStAckHigh, hwait]
    cases waitLevel .high Config.tAckHigh s with
    | ok | stay => rfl
    | timeout => exact congrArg Host.Outcome.next (withCmd_hsFail c s.readLine _)
  | bitLow =>
    simp only [stInstr, exec, execStBitLow, hwait]
    cases waitLevel .low Config.tBitLow s <;> rfl
  | measHigh =>
    simp only [stInstr, exec, execStMeasHigh, hmeasure]
    cases measureHigh Config.tMeas s with
    | rise | timeout | stay => rfl
    | fall => exact withCmd_fallPoll c s.readLine
  | check =>
    exact congrArg Host.Outcome.next (apply_ite (withCmd c)
      (accept (s.byteAt 0) (s.byteAt 1) (s.byteAt 2) (s.byteAt 3) (s.byteAt 4) = true) _ _)

theorem withCmd_blockStep (hb : s.busy = true) : mapNext (withCmd c) (blockStep s) = blockStep (withCmd c s) :=
  (apply_ite (mapNext (withCmd c)) (s.inp.rst = true) _ _).trans (if_congr Iff.rfl rfl (withCmd_exec_st c s hb))

/-- The host's access is served alike whatever command is presented with it. -/
theorem withCmd_hostPort : mapNext (withCmd c) (hostPort s) = hostPort (withCmd c s) := by
  have hhost : (withCmd c s).inp.host = s.inp.host := rfl
  unfold hostPort
  rw [hhost]
  cases s.inp.host with
  | none => rfl
  | some a =>
    cases a with
    | readPort p => dsimp only; split_ifs <;> rfl
    | writeAbove k => rfl

end

/-- A step of a busy block is the same whatever command is presented. -/
theorem step_withCmd (c : Option CmdWord) {s : State} (hb : s.busy = true) : step (withCmd c s) = step s := by
  have hport := (withCmd_hostPort c s).symm
  rcases hostPort_cases s with h | h | ⟨w, n, h⟩ <;> rw [h] at hport
  · rw [step_of_hostPort_refused h, step_of_hostPort_refused hport]
  · rw [step_of_hostPort_next h, step_of_hostPort_next hport, ← withCmd_blockStep c s hb, thenPresent_mapNext_withCmd]
  · rw [step_of_hostPort_next h, step_of_hostPort_next hport, ← withCmd_blockStep c (s.setHostWord w n) hb,
      thenPresent_mapNext_withCmd]

/-- Settles O18: a busy block accepts no command, and its step does not look at one. -/
theorem commandWhileBusyHasNoEffect : Obligations.CommandWhileBusyHasNoEffect := by
  unfold Obligations.CommandWhileBusyHasNoEffect
  exact fun s ref hb => ⟨rfl, whenReady_busy _ s hb, whenReady_busy _ s hb, whenReady_busy _ s hb,
    whenReady_busy _ s hb, rfl, (step_withCmd none hb).symm⟩

end Sys2Proof.Machine
end

section
/-! PROOFS. The graph of R126, and that no step of a state that meets the invariant faults (R124, R151). -/

namespace Sys2Proof.Machine

/-! ## The graph of R126 -/

theorem acceptCommand_edge {s t : State} (hs : s.st = .idle ∨ s.st = .done ∨ s.st = .failed)
    (ht : acceptCommand s = .next t) : edge s.st t.st = true := by
  have hstay : edge s.st s.st = true ∧ edge s.st .failed = true ∧ edge s.st .idle = true ∧
      edge s.st .startLow = true := by
    rcases hs with hs | hs | hs <;> rw [hs] <;> decide
  obtain ⟨hsame, hfailed, hidle, hstart⟩ := hstay
  rcases acceptCommand_cases ht with rfl | ⟨-, rfl⟩ | ⟨-, -, rfl⟩ | ⟨-, -, rfl⟩
  exacts [hsame, hfailed, hidle, hstart]

/-- A state that has an edge to itself may stay. -/
theorem edge_stay {s : State} {x : St} (hs : s.st = x) (hx : edge x x = true) : edge x s.st = true := by rwa [hs]

/-- The operation of a state goes along an edge of its row. -/
theorem exec_st_edge {s t : State} (ht : exec (stInstr s.st) s = .next t) : edge s.st t.st = true := by
  rcases exec_st_cases ht with ⟨hs, ht⟩ | ⟨hs, ht⟩ | ⟨hs, ht⟩ | ⟨hs, ht⟩ | ⟨hs, ht⟩ | ⟨hs, ht⟩ | ⟨hs, ht⟩ | ⟨hs, ht⟩ |
    ⟨hs, rfl⟩
  · exact acceptCommand_edge hs ht
  all_goals rw [hs]
  · rcases execStStartLow_cases ht with ⟨-, rfl⟩ | ⟨-, rfl⟩
    exacts [rfl, edge_stay hs rfl]
  · rcases execStStartRel_cases ht with ⟨-, rfl⟩ | ⟨-, rfl⟩
    exacts [rfl, edge_stay hs rfl]
  · rcases execStAckLow_cases ht with ⟨-, rfl⟩ | ⟨-, -, rfl⟩ | ⟨-, -, rfl⟩ | ⟨-, rfl⟩
    exacts [rfl, rfl, rfl, edge_stay hs rfl]
  · rcases execStAckHigh_cases ht with ⟨-, rfl⟩ | ⟨-, -, rfl⟩ | ⟨-, -, rfl⟩ | ⟨-, rfl⟩
    exacts [rfl, rfl, rfl, edge_stay hs rfl]
  · rcases execStRetryWait_cases ht with ⟨-, rfl⟩ | ⟨-, rfl⟩
    exacts [rfl, edge_stay hs rfl]
  · rcases execStBitLow_cases ht with ⟨-, rfl⟩ | ⟨-, rfl⟩ | ⟨-, rfl⟩
    exacts [rfl, rfl, edge_stay hs rfl]
  · rcases execStMeasHigh_cases ht with ⟨-, -, rfl⟩ | ⟨-, -, rfl, -⟩ | ⟨-, -, rfl⟩ | ⟨-, -, rfl⟩
    · exact edge_stay hs rfl
    · rcases afterFall_cases s with ⟨-, ht⟩ | ⟨-, ht⟩ <;> rw [ht] <;> rfl
    · rfl
    · exact edge_stay hs rfl
  · rcases validate_cases s with ⟨-, ht⟩ | ⟨-, ht⟩ <;> rw [ht] <;> rfl

/-- Settles O50: every state's operation goes along an edge. -/
theorem everyStepFollowsATransitionOfTheTable : Obligations.EveryStepFollowsATransitionOfTheTable := by
  unfold Obligations.EveryStepFollowsATransitionOfTheTable
  intro s t ht hr
  exact step_relates (R := fun s t => edge s.st t.st = true) (fun _ _ h => exec_st_edge h) (fun _ _ _ _ h => h)
    (fun s t h => (present_st t).symm ▸ h) hr ht

/-! ## No fault (R151) -/

theorem whenReady_ne_fault {o : Host.Outcome State Fault Refusal} (ho : ∀ r, o ≠ .fault r) (s : State) (r : Fault) :
    whenReady o s ≠ .fault r := by
  unfold whenReady
  split_ifs
  · exact nofun
  · exact ho r

theorem whenReady_next_ne_fault (t s : State) (r : Fault) : whenReady (.next t) s ≠ .fault r :=
  whenReady_ne_fault (o := .next t) (fun _ => nofun) s r

/-- No command faults. -/
theorem acceptCommand_ne_fault (s : State) (r : Fault) : acceptCommand s ≠ .fault r := by
  cases hc : s.inp.cmd with
  | none =>
    rw [acceptCommand_none s hc]
    exact nofun
  | some w =>
    rw [acceptCommand_some s w hc]
    rcases cmdWord_cases w with rfl | rfl | rfl | rfl | rfl | rfl | rfl | rfl
    · exact nofun
    · exact whenReady_next_ne_fault _ s r
    · exact whenReady_next_ne_fault _ s r
    · exact nofun
    · exact nofun
    · exact whenReady_next_ne_fault _ s r
    · refine whenReady_ne_fault (fun _ => ?_) s r
      split_ifs <;> exact nofun
    · exact nofun

theorem Inv.exec_st_ne_fault {s : State} (h : Inv s) (r : Fault) : exec (stInstr s.st) s ≠ .fault r := by
  cases hb : s.busy with
  | false => exact exec_st_of_rest hb ▸ acceptCommand_ne_fault s r
  | true =>
    obtain ⟨t, ht⟩ := exec_busy_next s hb (slotByte_lt h.index_le)
    rw [ht]
    exact nofun

theorem Inv.blockStep_ne_fault {s : State} (h : Inv s) (r : Fault) : blockStep s ≠ .fault r := by
  unfold blockStep
  split_ifs
  · exact nofun
  · exact h.exec_st_ne_fault r

theorem thenPresent_ne_fault {o : Host.Outcome State Fault Refusal} {r : Fault} (h : o ≠ .fault r) :
    thenPresent o ≠ .fault r := by
  cases o with
  | next t | refused r => exact nofun
  | fault r' => exact h

theorem Inv.step_ne_fault {s : State} (h : Inv s) (r : Fault) : step s ≠ .fault r := by
  rcases hostPort_cases s with hp | hp | ⟨w, n, hp⟩
  · rw [step_of_hostPort_refused hp]
    exact nofun
  · rw [step_of_hostPort_next hp]
    exact thenPresent_ne_fault (h.blockStep_ne_fault r)
  · rw [step_of_hostPort_next hp]
    exact thenPresent_ne_fault ((h.with_outside (some w) s.inp s.env (s.fresh + n)).blockStep_ne_fault r)

/-- Settles O57: a command has no fault, and the slot of a fall poll exists. -/
theorem noReachableStateFaults : Obligations.NoReachableStateFaults := by
  unfold Obligations.NoReachableStateFaults
  refine fun s h => ⟨h.step_ne_fault, fun hb hhost => ?_⟩
  rw [step_of_hostPort_next (hostPort_none hhost)]
  unfold blockStep
  split_ifs
  · exact ⟨_, rfl⟩
  · obtain ⟨t, ht⟩ := exec_busy_next s hb (slotByte_lt h.index_le)
    exact ⟨present t, congrArg thenPresent ht⟩

end Sys2Proof.Machine
end

section
/-! PROOFS. How far a READ has to go (R82, R83, R133, R172): a step of a busy block goes forward or waits, a wait ends
when time progresses, and lasts when the clock stops. -/

namespace Sys2Proof.Machine

/-! ## One step forward (R133) -/

theorem statesLeft_le (s : State) : statesLeft s ≤ 90 := by
  unfold statesLeft
  grind

/-- The block is in the same wait. -/
structure SameWait (s t : State) : Prop where
  st_eq : t.st = s.st
  t0_eq : t.t0 = s.t0

/-- The block is in the same wait of the same attempt and bit-slot. -/
structure SamePlace (s t : State) : Prop extends SameWait s t where
  left_eq : statesLeft t = statesLeft s

/-- What a step of a busy block does: it enters a later state of the READ, or its wait is not over, or it has made
MEAS_HIGH's rise poll. -/
inductive GoesForward (s t : State) : Prop
  | later (h : statesLeft t < statesLeft s)
  | waits (h : SamePlace s t) (hhi : t.hi = s.hi) (hin : s.waited ≤ waitLimit s.st)
  | rises (h : SamePlace s t) (hs : s.st = .measHigh) (hhi : s.hi = false) (hhi' : t.hi = true)

theorem GoesForward.stay {s : State} {x : St} (hs : s.st = x) (hin : s.waited ≤ waitLimit x) : GoesForward s s :=
  .waits ⟨⟨rfl, rfl⟩, rfl⟩ rfl (hs ▸ hin)

theorem GoesForward.poll {s : State} {x : St} (hs : s.st = x) (hin : s.waited ≤ waitLimit x) :
    GoesForward s s.readLine := .waits ⟨⟨rfl, rfl⟩, rfl⟩ rfl (hs ▸ hin)

/-- From every state of a READ the end is still ahead. -/
theorem statesLeft_pos {s : State} (hb : s.busy = true) : 0 < statesLeft s := by
  unfold State.busy at hb
  cases hs : s.st <;> grind [statesLeft, stBusy]

theorem GoesForward.of_rest {s t : State} (hb : s.busy = true) (ht : t.st = .done ∨ t.st = .failed) :
    GoesForward s t := by
  refine .later ?_
  have hzero : statesLeft t = 0 := by rcases ht with ht | ht <;> simp [statesLeft, ht]
  rw [hzero]
  exact statesLeft_pos hb

theorem startLow_forward {s t : State} (hs : s.st = .startLow) (ht : execStStartLow s = .next t) :
    GoesForward s t := by
  rcases execStStartLow_cases ht with ⟨-, rfl⟩ | ⟨hin, rfl⟩
  · rcases att_cases s.att with ha | ha <;> exact .later (by simp [statesLeft, enterStartRel, hs, ha])
  · exact .stay hs hin.le

theorem startRel_forward {s t : State} (hs : s.st = .startRel) (ht : execStStartRel s = .next t) :
    GoesForward s t := by
  rcases execStStartRel_cases ht with ⟨-, rfl⟩ | ⟨hin, rfl⟩
  · rcases att_cases s.att with ha | ha <;> exact .later (by simp [statesLeft, startListening, hs, ha])
  · exact .stay hs hin.le

theorem retryWait_forward {s t : State} (hi : Inv s) (hs : s.st = .retryWait) (ht : execStRetryWait s = .next t) :
    GoesForward s t := by
  rcases execStRetryWait_cases ht with ⟨-, rfl⟩ | ⟨hin, rfl⟩
  · exact .later (by simp [statesLeft, enterStartLow, hs, hi.retry_att hs])
  · exact .stay hs hin.le

theorem ackLow_forward {s t : State} (hs : s.st = .ackLow) (ht : execStAckLow s = .next t) : GoesForward s t := by
  rcases execStAckLow_cases ht with ⟨-, rfl⟩ | ⟨ha, -, rfl⟩ | ⟨-, -, rfl⟩ | ⟨hin, rfl⟩
  · rcases att_cases s.att with ha | ha <;> exact .later (by simp [statesLeft, hs, ha])
  · exact .later (by simp [statesLeft, hs, ha])
  · exact .of_rest (busy_of_polling (hs ▸ rfl)) (.inr rfl)
  · exact .poll hs hin

theorem ackHigh_forward {s t : State} (hs : s.st = .ackHigh) (ht : execStAckHigh s = .next t) : GoesForward s t := by
  rcases execStAckHigh_cases ht with ⟨-, rfl⟩ | ⟨ha, -, rfl⟩ | ⟨-, -, rfl⟩ | ⟨hin, rfl⟩
  · rcases att_cases s.att with ha | ha <;> exact .later (by simp [statesLeft, hsOk, hs, ha])
  · exact .later (by simp [statesLeft, hs, ha])
  · exact .of_rest (busy_of_polling (hs ▸ rfl)) (.inr rfl)
  · exact .poll hs hin

theorem bitLow_forward {s t : State} (hs : s.st = .bitLow) (ht : execStBitLow s = .next t) : GoesForward s t := by
  rcases execStBitLow_cases ht with ⟨-, rfl⟩ | ⟨-, rfl⟩ | ⟨hin, rfl⟩
  · exact .later (by simp [statesLeft, enterMeasHigh, hs])
  · exact .of_rest (busy_of_polling (hs ▸ rfl)) (.inr rfl)
  · exact .poll hs hin

/-- A fall poll goes on to the next slot, or to CHECK after the last (R102). -/
theorem GoesForward.afterFall {s : State} (hi : s.i.toNat ≤ 39) (hs : s.st = .measHigh) :
    GoesForward s (afterFall s) := by
  refine .later ?_
  rcases afterFall_cases s with ⟨-, ht⟩ | ⟨hmore, ht⟩ <;> rw [ht]
  · simp [statesLeft, hs]
  · have hlt := index_lt_of_ne hi hmore
    simp only [statesLeft, hs, State.enter_st, State.enter_i, State.setIndex_i, next_index hi]
    omega

theorem measHigh_forward {s t : State} (hi : Inv s) (hs : s.st = .measHigh) (ht : execStMeasHigh s = .next t) :
    GoesForward s t := by
  rcases execStMeasHigh_cases ht with ⟨hhi, -, rfl⟩ | ⟨-, -, rfl, -⟩ | ⟨-, -, rfl⟩ | ⟨-, hin, rfl⟩
  · exact .rises ⟨⟨rfl, rfl⟩, rfl⟩ hs hhi rfl
  · exact .afterFall hi.index_le hs
  · exact .of_rest (busy_of_polling (hs ▸ rfl)) (.inr rfl)
  · exact .poll hs hin

theorem check_forward {s : State} (hs : s.st = .check) : GoesForward s (validate s) := by
  refine .of_rest (busy_of_st hs rfl) ?_
  rcases validate_cases s with ⟨-, ht⟩ | ⟨-, ht⟩ <;> rw [ht]
  exacts [.inl rfl, .inr rfl]

theorem exec_st_forward {s t : State} (hi : Inv s) (hb : s.busy = true) (ht : exec (stInstr s.st) s = .next t) :
    GoesForward s t := by
  rcases exec_st_cases ht with ⟨hs, -⟩ | ⟨hs, ht⟩ | ⟨hs, ht⟩ | ⟨hs, ht⟩ | ⟨hs, ht⟩ | ⟨hs, ht⟩ | ⟨hs, ht⟩ | ⟨hs, ht⟩ |
    ⟨hs, rfl⟩
  · exact absurd (hb.symm.trans (busy_of_rest hs)) (by decide)
  · exact startLow_forward hs ht
  · exact startRel_forward hs ht
  · exact ackLow_forward hs ht
  · exact ackHigh_forward hs ht
  · exact retryWait_forward hi hs ht
  · exact bitLow_forward hs ht
  · exact measHigh_forward hi hs ht
  · exact check_forward hs

/-- The next step's inputs are no part of how far the READ has come. -/
theorem GoesForward.present {s t : State} (h : GoesForward s t) : GoesForward s (present t) := by
  obtain ⟨inp, env, n, hp⟩ := present_frame t
  rw [hp]
  cases h with
  | later h => exact .later h
  | waits h hhi hin => exact .waits { h with } hhi hin
  | rises h hs hhi hhi' => exact .rises { h with } hs hhi hhi'

/-- What does not depend on the host's word. -/
theorem GoesForward.of_setHostWord {s t : State} {w : HostWord} {n : Nat} (h : GoesForward (s.setHostWord w n) t) :
    GoesForward s t := by
  cases h with
  | later h => exact .later h
  | waits h hhi hin => exact .waits { h with } hhi hin
  | rises h hs hhi hhi' => exact .rises { h with } hs hhi hhi'

theorem step_forward {s t : State} (hi : Inv s) (hb : s.busy = true) (hr : s.inp.rst = false)
    (ht : step s = .next t) : GoesForward s t :=
  step_relates (R := fun s t => Inv s → s.busy = true → GoesForward s t) (fun _ _ h hi hb => exec_st_forward hi hb h)
    (fun s _ w n h hi hb => (h (hi.with_outside (some w) s.inp s.env (s.fresh + n)) hb).of_setHostWord)
    (fun _ _ h hi hb => (h hi hb).present) hr ht hi hb

/-- An edge out of a state of a READ to a state of rest ends the READ. -/
theorem ended_of_edge {x y : St} (h : edge x y = true) (hx : stBusy x = true) (hy : stBusy y = false) :
    y = .done ∨ y = .failed := by
  cases y with
  | done => exact .inl rfl
  | failed => exact .inr rfl
  | idle => cases x <;> simp [edge, stBusy] at h hx
  | _ => cases hy

theorem step_ends {s t : State} (hb : s.busy = true) (hr : s.inp.rst = false) (ht : step s = .next t)
    (hrest : t.busy = false) : t.st = .done ∨ t.st = .failed :=
  ended_of_edge (everyStepFollowsATransitionOfTheTable s t ht hr) hb hrest

/-! ## A READ under the progress of time (R83) -/

/-- How many steps a READ may still make that do not wait: each of its states is entered once, and in each at most one
rise poll is made. -/
def movesLeft (s : State) : Nat := 2 * statesLeft s + if s.hi then 0 else 1

/-- A step of a busy block moves the READ forward or waits. -/
theorem GoesForward.moves_or_waits {s t : State} (h : GoesForward s t) : movesLeft t < movesLeft s ∨
    SamePlace s t ∧ movesLeft t = movesLeft s ∧ s.waited ≤ waitLimit s.st := by
  unfold movesLeft
  cases h with
  | later h => exact .inl (by split_ifs <;> omega)
  | waits h hhi hin => exact .inr ⟨h, by rw [h.left_eq, hhi], hin⟩
  | rises h hs hhi hhi' => exact .inl (by simp [h.left_eq, hhi, hhi'])

section
variable {e : Nat → Input} {r : Nat → State} (hinv : Inv (r 0)) (hrst : ∀ n, (e n).rst = false) (hrun : RunsUnder e r)
include hinv hrun

theorem inv_of_runsUnder (n : Nat) : Inv (r n) := by
  induction n with
  | zero => exact hinv
  | succ n ih =>
    exact stepKeepsTheRegisterInvariant _ _ (ih.with_outside (r n).hostWord (e n) (r n).env (r n).fresh) (hrun n)

include hrst

theorem run_moves_or_waits {n : Nat} (hb : (r n).busy = true) : movesLeft (r (n + 1)) < movesLeft (r n) ∨
    SamePlace (r n) (r (n + 1)) ∧ movesLeft (r (n + 1)) = movesLeft (r n) ∧
      ((e n).now - (r n).t0).toNat ≤ waitLimit (r n).st := by
  have hi := (inv_of_runsUnder hinv hrun n).with_outside (r n).hostWord (e n) (r n).env (r n).fresh
  rcases (step_forward hi hb (hrst n) (hrun n)).moves_or_waits with h | ⟨h, hleft, hin⟩
  · exact .inl h
  · exact .inr ⟨{ h with }, hleft, hin⟩

/-- Every wait ends when time progresses: some step moves the READ forward. -/
theorem wait_ends {clock : Nat → Nat} (htime : TimeProgresses e clock) {n : Nat} (hb : (r n).busy = true) :
    ∃ m, n ≤ m ∧ (r m).busy = true ∧ movesLeft (r (m + 1)) < movesLeft (r n) := by
  by_contra! hnever
  have hwaits (k : Nat) : SamePlace (r n) (r (n + k)) ∧ movesLeft (r (n + k)) = movesLeft (r n) := by
    induction k with
    | zero => exact ⟨⟨⟨rfl, rfl⟩, rfl⟩, rfl⟩
    | succ k ih =>
      obtain ⟨hsame, hleft⟩ := ih
      have hbk : (r (n + k)).busy = true := busy_of_st hsame.st_eq hb
      have hstay := hnever (n + k) (Nat.le_add_right n k) hbk
      rcases run_moves_or_waits hinv hrst hrun hbk with h | ⟨h, hleft', -⟩
      · omega
      · exact ⟨⟨⟨h.st_eq.trans hsame.st_eq, h.t0_eq.trans hsame.t0_eq⟩, h.left_eq.trans hsame.left_eq⟩,
          hleft'.trans hleft⟩
  obtain ⟨m, hnm, hpast⟩ := htime.elapsed_passes (r n).t0 (waitLimit_lt (r n).st) n
  obtain ⟨k, rfl⟩ := Nat.exists_eq_add_of_le hnm
  obtain ⟨hsame, hleft⟩ := hwaits k
  have hbk : (r (n + k)).busy = true := busy_of_st hsame.st_eq hb
  rcases run_moves_or_waits hinv hrst hrun hbk with h | ⟨-, -, hin⟩
  · exact Nat.not_lt_of_le (hnever (n + k) hnm hbk) (h.trans_eq hleft)
  · rw [hsame.st_eq, hsame.t0_eq] at hin
    exact Nat.not_lt_of_le hin hpast

/-- A READ ends when time progresses, by induction on the moves it has left. -/
theorem read_ends {clock : Nat → Nat} (htime : TimeProgresses e clock) (n : Nat) (hb : (r n).busy = true) :
    ∃ m, n < m ∧ ((r m).st = .done ∨ (r m).st = .failed) := by
  induction hk : movesLeft (r n) using Nat.strong_induction_on generalizing n with
  | _ k ih =>
    obtain ⟨m, hnm, hbm, hmove⟩ := wait_ends hinv hrst hrun htime hb
    cases hnext : (r (m + 1)).busy with
    | false =>
      exact ⟨m + 1, Nat.lt_succ_of_le hnm, step_ends (s := { r m with inp := e m }) hbm (hrst m) (hrun m) hnext⟩
    | true =>
      obtain ⟨l, hml, hend⟩ := ih _ (hk ▸ hmove) (m + 1) hnext rfl
      exact ⟨l, by omega, hend⟩

end

/-! ## A READ under a stopped clock (R83, R172) -/

/-- A poll that finds no level and no timeout, or a delay that is not over, leaves the block waiting. -/
theorem exec_st_waits {s t : State} (hpoll : pollStays s.st s.hi s.inp.lvl = true)
    (hin : s.waited < waitLimit s.st) (ht : exec (stInstr s.st) s = .next t) : SameWait s t := by
  rcases exec_st_cases ht with ⟨hs, -⟩ | ⟨hs, ht⟩ | ⟨hs, ht⟩ | ⟨hs, ht⟩ | ⟨hs, ht⟩ | ⟨hs, ht⟩ | ⟨hs, ht⟩ | ⟨hs, ht⟩ |
    ⟨hs, rfl⟩
  · rcases hs with hs | hs | hs <;> rw [hs] at hin <;> exact absurd hin (Nat.not_lt_zero _)
  all_goals rw [hs] at hpoll hin
  · rcases execStStartLow_cases ht with ⟨hover, -⟩ | ⟨-, rfl⟩
    · exact absurd hin (Nat.not_lt_of_le hover)
    · exact ⟨rfl, rfl⟩
  · rcases execStStartRel_cases ht with ⟨hover, -⟩ | ⟨-, rfl⟩
    · exact absurd hin (Nat.not_lt_of_le hover)
    · exact ⟨rfl, rfl⟩
  · rcases execStAckLow_cases ht with ⟨hl, -⟩ | ⟨-, hover, -⟩ | ⟨-, hover, -⟩ | ⟨-, rfl⟩
    · simp [pollStays, hl] at hpoll
    · exact absurd hin (Nat.lt_asymm hover)
    · exact absurd hin (Nat.lt_asymm hover)
    · exact ⟨rfl, rfl⟩
  · rcases execStAckHigh_cases ht with ⟨hl, -⟩ | ⟨-, hover, -⟩ | ⟨-, hover, -⟩ | ⟨-, rfl⟩
    · simp [pollStays, hl] at hpoll
    · exact absurd hin (Nat.lt_asymm hover)
    · exact absurd hin (Nat.lt_asymm hover)
    · exact ⟨rfl, rfl⟩
  · rcases execStRetryWait_cases ht with ⟨hover, -⟩ | ⟨-, rfl⟩
    · exact absurd hin (Nat.not_lt_of_le hover)
    · exact ⟨rfl, rfl⟩
  · rcases execStBitLow_cases ht with ⟨hl, -⟩ | ⟨hover, -⟩ | ⟨-, rfl⟩
    · simp [pollStays, hl] at hpoll
    · exact absurd hin (Nat.lt_asymm hover)
    · exact ⟨rfl, rfl⟩
  · rcases execStMeasHigh_cases ht with ⟨-, -, rfl⟩ | ⟨hhi, hl, -⟩ | ⟨-, hover, -⟩ | ⟨-, -, rfl⟩
    · exact ⟨rfl, rfl⟩
    · simp [pollStays, hhi, hl] at hpoll
    · exact absurd hin (Nat.lt_asymm hover)
    · exact ⟨rfl, rfl⟩
  · exact absurd hin (Nat.not_lt_zero _)

theorem step_waits {s t : State} (hpoll : pollStays s.st s.hi s.inp.lvl = true) (hin : s.waited < waitLimit s.st)
    (hr : s.inp.rst = false) (ht : step s = .next t) : SameWait s t :=
  step_relates (R := fun s t => pollStays s.st s.hi s.inp.lvl = true → s.waited < waitLimit s.st → SameWait s t)
    (fun _ _ h hpoll hin => exec_st_waits hpoll hin h) (fun _ _ _ _ h hpoll hin => { h hpoll hin with })
    (fun _ t h hpoll hin => ⟨(present_st t).trans (h hpoll hin).st_eq, (present_t0 t).trans (h hpoll hin).t0_eq⟩)
    hr ht hpoll hin

/-- A state that has a wait at all is one of a READ. -/
theorem busy_of_waitLimit_pos {s : State} (h : 0 < waitLimit s.st) : s.busy = true := by
  unfold State.busy
  cases hs : s.st <;> simp [hs, waitLimit, stBusy] at h ⊢

/-- A run under a stopped clock stays in the wait it begins in while no level ends it. -/
theorem waits_of_stopped {e : Nat → Input} {r : Nat → State} {stopped : Time} (hrst : ∀ n, (e n).rst = false)
    (hrun : RunsUnder e r) (hnow : ∀ n, (e n).now = stopped)
    (hin : (stopped - (r 0).t0).toNat < waitLimit (r 0).st)
    (hpoll : ∀ n, pollStays (r 0).st (r n).hi (e n).lvl = true) (n : Nat) : SameWait (r 0) (r n) := by
  induction n with
  | zero => exact ⟨rfl, rfl⟩
  | succ n ih =>
    have hstep : SameWait (r n) (r (n + 1)) := by
      refine { step_waits (s := { r n with inp := e n }) ?_ ?_ (hrst n) (hrun n) with }
      · exact ih.st_eq.symm ▸ hpoll n
      · simpa only [waited_eq, hnow, ih.t0_eq, ih.st_eq] using hin
    exact ⟨hstep.st_eq.trans ih.st_eq, hstep.t0_eq.trans ih.t0_eq⟩

/-! ## The READ -/

/-- Settles O58: each step goes forward or waits; under the progress of time every wait ends, and under a stopped clock
none does whose level does not come. -/
theorem readRunsForwardThroughAtMostNinetyStates : Obligations.ReadRunsForwardThroughAtMostNinetyStates := by
  unfold Obligations.ReadRunsForwardThroughAtMostNinetyStates
  refine ⟨fun s t hi hb hr ht => ⟨statesLeft_le s, ?_, step_ends hb hr ht⟩,
    fun e r clock hinv hrst hrun htime => read_ends hinv hrst hrun htime,
    fun e r stopped hrst hrun hnow hin hpoll n => ?_⟩
  · cases step_forward hi hb hr ht with
    | later h => exact .inl h
    | waits h hhi hin => exact .inr ⟨h.st_eq, h.left_eq, h.t0_eq, .inl hin⟩
    | rises h hs hhi hhi' => exact .inr ⟨h.st_eq, h.left_eq, h.t0_eq, .inr ⟨hs, hhi, hhi'⟩⟩
  · have hst := (waits_of_stopped hrst hrun hnow hin hpoll n).st_eq
    refine ⟨hst, busy_of_waitLimit_pos ?_⟩
    rw [hst]
    exact Nat.zero_lt_of_lt hin

end Sys2Proof.Machine
end

section
/-! PROOFS. Exceptions (R142, R145, R146): the pin when a READ ends, and the status codes as operations. -/

namespace Sys2Proof.Machine

/-! ## The cleanup guarantee (R146) -/

/-- The operation of a busy state leaves the block busy, or ends the READ in a listening state without turning the pin
round (R103, R109, R145). -/
theorem exec_st_busy_or_listening {s t : State} (hb : s.busy = true) (ht : exec (stInstr s.st) s = .next t) :
    t.busy = true ∨ listening s.st = true ∧ t.pinDir = s.pinDir := by
  rcases exec_st_cases ht with ⟨hs, -⟩ | ⟨-, ht⟩ | ⟨-, ht⟩ | ⟨hs, ht⟩ | ⟨hs, ht⟩ | ⟨-, ht⟩ | ⟨hs, ht⟩ | ⟨hs, ht⟩ |
    ⟨hs, rfl⟩
  · exact absurd (hb.symm.trans (busy_of_rest hs)) (by decide)
  · rcases execStStartLow_cases ht with ⟨-, rfl⟩ | ⟨-, rfl⟩
    exacts [.inl rfl, .inl hb]
  · rcases execStStartRel_cases ht with ⟨-, rfl⟩ | ⟨-, rfl⟩
    exacts [.inl rfl, .inl hb]
  · rcases execStAckLow_cases ht with ⟨-, rfl⟩ | ⟨-, -, rfl⟩ | ⟨-, -, rfl⟩ | ⟨-, rfl⟩
    exacts [.inl rfl, .inl rfl, .inr ⟨hs ▸ rfl, rfl⟩, .inl hb]
  · rcases execStAckHigh_cases ht with ⟨-, rfl⟩ | ⟨-, -, rfl⟩ | ⟨-, -, rfl⟩ | ⟨-, rfl⟩
    exacts [.inl rfl, .inl rfl, .inr ⟨hs ▸ rfl, rfl⟩, .inl hb]
  · rcases execStRetryWait_cases ht with ⟨-, rfl⟩ | ⟨-, rfl⟩
    exacts [.inl rfl, .inl hb]
  · rcases execStBitLow_cases ht with ⟨-, rfl⟩ | ⟨-, rfl⟩ | ⟨-, rfl⟩
    exacts [.inl rfl, .inr ⟨hs ▸ rfl, rfl⟩, .inl hb]
  · rcases execStMeasHigh_cases ht with ⟨-, -, rfl⟩ | ⟨-, -, rfl, -⟩ | ⟨-, -, rfl⟩ | ⟨-, -, rfl⟩
    · exact .inl hb
    · rcases afterFall_cases s with ⟨-, ht⟩ | ⟨-, ht⟩ <;> rw [ht] <;> exact .inl rfl
    · exact .inr ⟨hs ▸ rfl, rfl⟩
    · exact .inl hb
  · rcases validate_cases s with ⟨-, ht⟩ | ⟨-, ht⟩ <;> rw [ht] <;> exact .inr ⟨hs ▸ rfl, rfl⟩

/-- Where the operation of a busy state ends the READ, the pin is an input (R32, R128). -/
theorem Inv.exec_st_dir {s t : State} (h : Inv s) (hb : s.busy = true) (ht : exec (stInstr s.st) s = .next t)
    (hrest : t.busy = false) : t.pinDir = .input := by
  rcases exec_st_busy_or_listening hb ht with hbusy | ⟨hlisten, hdir⟩
  · exact absurd (hbusy.symm.trans hrest) (by decide)
  · exact hdir.trans (h.dir_listening hlisten)

/-- In the step in which `busy` falls, reset included, the pin is an input (R146, R161). -/
theorem Inv.step_dir {s t : State} (h : Inv s) (hb : s.busy = true) (ht : step s = .next t)
    (hrest : t.busy = false) : t.pinDir = .input := by
  obtain ⟨s1, u, h1, hu, rfl⟩ := step_parts ht
  have hrun : Inv s1 ∧ s1.busy = true := by
    rcases h1 with rfl | ⟨w, n, rfl⟩
    · exact ⟨h, hb⟩
    · exact ⟨h.with_outside (some w) s.inp s.env (s.fresh + n), hb⟩
  rw [present_pinDir]
  rcases hu with rfl | hu
  · exact doReset_pinDir s1
  · exact hrun.1.exec_st_dir hrun.2 hu (by simpa [State.busy] using hrest)

/-- Settles O56: the latch and the pull-up at rest are the invariant's, and a READ ends only while the pin is
an input. -/
theorem pullUpIsOffWhenBusyFalls : Obligations.PullUpIsOffWhenBusyFalls := by
  unfold Obligations.PullUpIsOffWhenBusyFalls
  intro s t h hb ht hrest
  obtain ⟨hout, hpu⟩ := (stepKeepsTheRegisterInvariant s t h ht).pin_at_rest hrest
  exact ⟨hpu, h.step_dir hb ht hrest, hout⟩

/-! ## The status codes -/

/-- An outcome that is FAIL of an error kind writes two registers (R145). -/
theorem next_fail (e : ErrorKind) (s : State) : (.next (fail e s) : Host.Outcome State Fault Refusal) =
    .next { s with code := .error e, st := .failed } := rfl

/-- An outcome that is a READ's success writes two registers (R109). -/
theorem next_succeed (s : State) : (.next (succeed s) : Host.Outcome State Fault Refusal) =
    .next { s with code := .ok, st := .done } := rfl

/-- Settles O39: each error kind's code is FAIL of that kind, and code 0 the end of a READ that succeeds. -/
theorem statusCodesEndTheCommand : Obligations.StatusCodesEndTheCommand := by
  unfold Obligations.StatusCodesEndTheCommand
  exact fun s => ⟨next_succeed s, next_fail .nullReference s, next_fail .handshakeTimeoutLow s,
    next_fail .handshakeTimeoutHigh s, next_fail .bitStartTimeout s, next_fail .highMeasureTimeout s,
    next_fail .checksumMismatch s⟩

/-- Settles O40: the two codes no rule raises have no other outcome. -/
theorem reservedStatusCodesAreRefused : Obligations.ReservedStatusCodesAreRefused := by
  unfold Obligations.ReservedStatusCodesAreRefused
  exact fun _ => ⟨rfl, rfl⟩

end Sys2Proof.Machine
end

section
/-! PROOFS. The reset action (R161): a step with `rst = 1` serves the host's read, then ends in the reset state
whatever the registers and the other inputs were. -/

namespace Sys2Proof.Machine

/-- A port of the interface, or no access at all, is served (R45). -/
theorem hostPort_inside {s : State}
    (h : s.inp.host = none ∨ ∃ p, s.inp.host = some (.readPort p) ∧ 1 ≤ p ∧ p ≤ 3) :
    hostPort s = .next s ∨ ∃ w n, hostPort s = .next (s.setHostWord w n) := by
  rcases h with hnone | ⟨p, hread, hlow, hhigh⟩
  · exact .inl (hostPort_none hnone)
  · right
    obtain rfl | rfl | rfl : p = 1 ∨ p = 2 ∨ p = 3 := by omega
    · exact ⟨_, _, hostPort_status hread⟩
    · exact ⟨_, _, hostPort_result hread⟩
    · exact ⟨_, _, hostPort_pinctl hread⟩

/-- Reset has priority over the operation `st` codes (R161). -/
theorem blockStep_reset {s : State} (hr : s.inp.rst = true) : blockStep s = .next (doReset s) := by
  simp [blockStep, hr]

/-- A step with `rst = 1` is the host's read, the reset action, and the next step's inputs. -/
theorem step_reset {s : State} (hr : s.inp.rst = true)
    (hh : s.inp.host = none ∨ ∃ p, s.inp.host = some (.readPort p) ∧ 1 ≤ p ∧ p ≤ 3) :
    ∃ s1, step s = .next (present (doReset s1)) := by
  rcases hostPort_inside hh with hport | ⟨w, n, hport⟩
  · exact ⟨s, by rw [step_of_hostPort_next hport, blockStep_reset hr]; rfl⟩
  · exact ⟨s.setHostWord w n, by rw [step_of_hostPort_next hport, blockStep_reset (s := s.setHostWord w n) hr]; rfl⟩

/-- The buffer reads 0 at every address after a reset (R34, R161). -/
theorem present_doReset_byteAt (s : State) (k : Nat) : (present (doReset s)).byteAt k = 0#8 := by
  rw [State.byteAt, present_fb, doReset_fb, Memory.read_nil]

/-- Settles O11: the reset action leaves the reset values, and presenting the next inputs keeps them. -/
theorem resetGivesEveryRegisterItsResetValue : Obligations.ResetGivesEveryRegisterItsResetValue := by
  unfold Obligations.ResetGivesEveryRegisterItsResetValue
  intro s hr hh
  obtain ⟨s1, hstep⟩ := step_reset hr hh
  refine ⟨present (doReset s1), hstep, ?_⟩
  simp [present_doReset_byteAt]

end Sys2Proof.Machine
end

section
/-! PROOFS. The round trip of decoder and encoder (30_encoding.md sections 2 and 3). -/

namespace Sys2Proof

/-! ## Decoding what an instruction is encoded as -/

/-- Settles O1: the round-trip law of each instruction, row by row of the opcode table. -/
theorem decodeOfEncodeGivesTheInstruction : Obligations.DecodeOfEncodeGivesTheInstruction := by
  unfold Obligations.DecodeOfEncodeGivesTheInstruction
  intro i
  cases i with
  | nop ref => exact Laws.RoundTrip.nop ref
  | init => exact Laws.RoundTrip.init
  | initNull => exact Laws.RoundTrip.initNull
  | read => exact Laws.RoundTrip.read
  | readNull => exact Laws.RoundTrip.readNull
  | reserved ref => exact Laws.RoundTrip.reserved ref
  | stIdle => exact Laws.RoundTrip.stIdle
  | stStartLow => exact Laws.RoundTrip.stStartLow
  | stStartRel => exact Laws.RoundTrip.stStartRel
  | stAckLow => exact Laws.RoundTrip.stAckLow
  | stAckHigh => exact Laws.RoundTrip.stAckHigh
  | stRetryWait => exact Laws.RoundTrip.stRetryWait
  | stBitLow => exact Laws.RoundTrip.stBitLow
  | stMeasHigh => exact Laws.RoundTrip.stMeasHigh
  | stCheck => exact Laws.RoundTrip.stCheck
  | stDone => exact Laws.RoundTrip.stDone
  | stFailed => exact Laws.RoundTrip.stFailed
  | codeOk => exact Laws.RoundTrip.codeOk
  | codeNullReference => exact Laws.RoundTrip.codeNullReference
  | codeHandshakeTimeoutLow => exact Laws.RoundTrip.codeHandshakeTimeoutLow
  | codeHandshakeTimeoutHigh => exact Laws.RoundTrip.codeHandshakeTimeoutHigh
  | codeBitStartTimeout => exact Laws.RoundTrip.codeBitStartTimeout
  | codeHighMeasureTimeout => exact Laws.RoundTrip.codeHighMeasureTimeout
  | codeChecksumMismatch => exact Laws.RoundTrip.codeChecksumMismatch
  | codeReservedTimeoutBitSync => exact Laws.RoundTrip.codeReservedTimeoutBitSync
  | codeReservedTimeoutHighPulse => exact Laws.RoundTrip.codeReservedTimeoutHighPulse
  | frame h f t g c => exact Laws.RoundTrip.frame h f t g c
  | status stCode rvalid inited busy code => exact Laws.RoundTrip.status stCode rvalid inited busy code
  | result temp hum => exact Laws.RoundTrip.result temp hum
  | pinctl pd pu out dir => exact Laws.RoundTrip.pinctl pd pu out dir

/-! ## Packing a word's own fields gives the word -/

theorem bit_getLsbD {n : Nat} (w : BitVec n) (k : Nat) : bit (w.getLsbD k) = w.extractLsb' k 1 := by
  apply BitVec.eq_of_getLsbD_eq
  intro j hj
  obtain rfl : j = 0 := by omega
  simp [bit]

/-- Neighbouring fields of one word concatenate to the field they make up; all of its bits make up the word. -/
theorem extract_append_extract {n : Nat} (w : BitVec n) (start low high : Nat) :
    w.extractLsb' (start + low) high ++ w.extractLsb' start low = w.extractLsb' start (high + low) :=
  BitVec.extractLsb'_append_extractLsb'_eq_extractLsb' rfl

theorem packCmd_of_fields (w : CmdWord) : packCmd (cmdRef w) (cmdOp w) = w := by
  rw [packCmd, cmdRef, cmdOp, bit_getLsbD, extract_append_extract w 0 2 1, BitVec.extractLsb'_eq_self]

theorem packFrame_of_fields (w : BitVec 40) :
    packFrame (w.extractLsb' 32 8) (w.extractLsb' 24 8) (w.extractLsb' 16 8) (w.extractLsb' 8 8)
      (w.extractLsb' 0 8) = w := by
  rw [packFrame, extract_append_extract w 24 8 8, extract_append_extract w 16 8 16, extract_append_extract w 8 8 24,
    extract_append_extract w 0 8 32, BitVec.extractLsb'_eq_self]

theorem packStatus_of_fields {w : HostWord} (hzero : w.extractLsb' 12 4 = 0#4) (hbit : w.getLsbD 7 = false) :
    packStatus (w.extractLsb' 8 4) (w.getLsbD 6) (w.getLsbD 5) (w.getLsbD 4) (w.extractLsb' 0 4) = w := by
  have hbit' : 0#1 = w.extractLsb' 7 1 := by rw [← bit_getLsbD, hbit]; rfl
  rw [packStatus, ← hzero, hbit', bit_getLsbD, bit_getLsbD, bit_getLsbD, extract_append_extract w 8 4 4,
    extract_append_extract w 7 1 8, extract_append_extract w 6 1 9, extract_append_extract w 5 1 10,
    extract_append_extract w 4 1 11, extract_append_extract w 0 4 12, BitVec.extractLsb'_eq_self]

theorem packResult_of_fields (w : HostWord) : packResult (w.extractLsb' 8 8) (w.extractLsb' 0 8) = w := by
  rw [packResult, extract_append_extract w 0 8 8, BitVec.extractLsb'_eq_self]

theorem packPinctl_of_fields {w : HostWord} (hzero : w.extractLsb' 4 12 = 0#12) :
    packPinctl (w.getLsbD 3) (w.getLsbD 2) (w.getLsbD 1) (w.getLsbD 0) = w := by
  rw [packPinctl, ← hzero, bit_getLsbD, bit_getLsbD, bit_getLsbD, bit_getLsbD, extract_append_extract w 3 1 12,
    extract_append_extract w 2 1 13, extract_append_extract w 1 1 14, extract_append_extract w 0 1 15,
    BitVec.extractLsb'_eq_self]

/-! ## What each channel's word decodes to is encoded as that word -/

/-- The instruction is well formed and has this word in this channel. -/
def Instr.HasWord (i : Instr) (ch : Channel) (w : Nat) : Prop := encode i = (ch, w) ∧ i.wellFormed = true

theorem decodeCmd_hasWord (w : CmdWord) : (decodeCmd w).HasWord .cmd w.toNat := by
  have hw := packCmd_of_fields w
  unfold decodeCmd
  split_ifs with hnop hinit href hread href
  · exact ⟨by rw [encode, ← hnop, hw], rfl⟩
  · exact ⟨by rw [encode, ← href, ← hinit, hw], rfl⟩
  · exact ⟨by rw [encode, ← Bool.eq_false_iff.2 href, ← hinit, hw], rfl⟩
  · exact ⟨by rw [encode, ← href, ← hread, hw], rfl⟩
  · exact ⟨by rw [encode, ← Bool.eq_false_iff.2 href, ← hread, hw], rfl⟩
  · have hop : cmdOp w = 3#2 := by bv_omega
    exact ⟨by rw [encode, ← hop, hw], rfl⟩

theorem toNat_encodeSt_of_decodeSt {w : BitVec 4} {state : St} (h : decodeSt w = some state) :
    (encodeSt state).toNat = w.toNat := by
  unfold decodeSt at h
  split at h <;> cases h <;> exact Eq.symm ‹w.toNat = _›

theorem stInstr_hasWord (state : St) : (stInstr state).HasWord .st (encodeSt state).toNat := by
  cases state <;> exact ⟨rfl, rfl⟩

theorem hasWord_of_decode_st {w : BitVec 4} {i : Instr} (h : decode .st w.toNat = .ok i) : i.HasWord .st w.toNat := by
  simp only [decode, Channel.width, Nat.not_le.2 w.isLt, if_false, BitVec.ofNat_toNat, BitVec.setWidth_eq] at h
  split at h
  next state hst =>
    cases h
    exact toNat_encodeSt_of_decodeSt hst ▸ stInstr_hasWord state
  next => cases h

theorem decode_code (w : BitVec 4) : decode .code w.toNat = decodeCode w := by
  simp only [decode, Channel.width, Nat.not_le.2 w.isLt, if_false, BitVec.ofNat_toNat, BitVec.setWidth_eq]

theorem hasWord_of_decodeCode {w : BitVec 4} {i : Instr} (h : decodeCode w = .ok i) : i.HasWord .code w.toNat := by
  unfold decodeCode at h
  split at h <;> cases h <;> exact ⟨congrArg (Prod.mk Channel.code) (Eq.symm ‹w.toNat = _›), rfl⟩

theorem decodeFrame_hasWord (w : BitVec 40) : (decodeFrame w).HasWord .frame w.toNat :=
  ⟨by rw [decodeFrame, encode, packFrame_of_fields], rfl⟩

theorem hasWord_of_decodeStatus {w : HostWord} {i : Instr} (h : decodeStatus w = .ok i) :
    i.HasWord .status w.toNat := by
  obtain ⟨hzero, hbit, hst, hcode⟩ := (decodeStatus_accepts w).1 ⟨i, h⟩
  unfold decodeStatus at h
  split_ifs at h
  cases h
  exact ⟨by rw [encode, packStatus_of_fields hzero hbit],
    by rw [Instr.wellFormed, decide_eq_true hst, decide_eq_true hcode]; rfl⟩

theorem decodeResult_hasWord (w : HostWord) : (decodeResult w).HasWord .result w.toNat :=
  ⟨by rw [decodeResult, encode, packResult_of_fields], rfl⟩

theorem hasWord_of_decodePinctl {w : HostWord} {i : Instr} (h : decodePinctl w = .ok i) :
    i.HasWord .pinctl w.toNat := by
  obtain ⟨hzero, hpd⟩ := (decodePinctl_accepts w).1 ⟨i, h⟩
  unfold decodePinctl at h
  split_ifs at h
  cases h
  exact ⟨by rw [encode, ← hpd, packPinctl_of_fields hzero], rfl⟩

/-- Every channel's own words, those of its width. -/
theorem hasWord_of_decode (ch : Channel) (w : BitVec ch.width) {i : Instr} (h : decode ch w.toNat = .ok i) :
    i.HasWord ch w.toNat := by
  cases ch with
  | cmd => exact Except.ok.inj ((decode_cmd w).symm.trans h) ▸ decodeCmd_hasWord w
  | st => exact hasWord_of_decode_st h
  | code => exact hasWord_of_decodeCode ((decode_code w).symm.trans h)
  | frame => exact Except.ok.inj ((decode_frame w).symm.trans h) ▸ decodeFrame_hasWord w
  | status => exact hasWord_of_decodeStatus ((decode_status w).symm.trans h)
  | result => exact Except.ok.inj ((decode_result w).symm.trans h) ▸ decodeResult_hasWord w
  | pinctl => exact hasWord_of_decodePinctl ((decode_pinctl w).symm.trans h)

/-- Settles O2: an accepted word is one of its channel's width, and packing the fields it was cut into gives it back. -/
theorem encodeOfDecodeGivesTheWord : Obligations.EncodeOfDecodeGivesTheWord := by
  unfold Obligations.EncodeOfDecodeGivesTheWord
  intro ch w i h
  have hw : (BitVec.ofNat ch.width w).toNat = w :=
    (BitVec.toNat_ofNat w ch.width).trans (Nat.mod_eq_of_lt (lt_of_decode h))
  rw [← hw] at h ⊢
  exact hasWord_of_decode ch (BitVec.ofNat ch.width w) h

end Sys2Proof
end
